-- ==== Sys2Proof/Word.lean ====
section
/-! DEFINITION. The word types of STL-CORE (00_scope.md R7, 30_encoding.md R51, R52). Bit 0 is the least significant bit of every
word (R9). What converts words to integers and back is in Machine/Operands.lean. -/
namespace Sys2Proof

/-- The 16-bit pattern of a Word16 (R7). -/
abbrev Word16 := BitVec 16

/-- The 32-bit pattern of a Word32, an operand field or a result field (R7). -/
abbrev Word32 := BitVec 32

/-- A command word, 96 bits (R51). -/
abbrev CmdWord := BitVec 96

/-- A response word, 34 bits (R52). -/
abbrev RspWord := BitVec 34

end Sys2Proof
end

