-- ==== Sys2Proof/Machine/Operands.lean ====
section
/-! DEFINITION. How operand fields become integers and integers become result fields (00_scope.md R10; 30_encoding.md R53, R54). -/
namespace Sys2Proof.Machine

/-- MAX_16 (R7). -/
def max16 : Int := 32767
/-- MIN_16 (R7). -/
def min16 : Int := -32768
/-- MAX_32 (R7). -/
def max32 : Int := 2147483647
/-- MIN_32 (R7). -/
def min32 : Int := -2147483648

/-- `s16(f)` (R10). -/
def s16 (f : Word16) : Int := f.toInt

/-- `s32(f)` (R10). -/
def s32 (f : Word32) : Int := f.toInt

/-- `u16(x)` (R10). -/
def u16 (x : Int) : Word16 := BitVec.ofInt 16 x

/-- `u32(x)` (R10). -/
def u32 (x : Int) : Word32 := BitVec.ofInt 32 x

/-- `wrap32(x)` (R10). -/
def wrap32 (x : Int) : Int := s32 (u32 x)

/-- `sext_32(f)` of a 16-bit field (R10). -/
def sext32 (f : Word16) : Word32 := u32 (s16 f)

/-- `zext_32(f)` of a 16-bit field (R10). -/
def zext32 (f : BitVec 16) : BitVec 32 := f.setWidth 32

/-- `zext_32` of one bit (R10, R54). -/
def bit32 (b : Bool) : Word32 := (BitVec.ofBool b).setWidth 32

/-- The exact integer `2^n`. -/
def pow2 (n : Nat) : Int := ((2 ^ n : Nat) : Int)

/-- `floor(x / 2^n)` (R10). -/
def floorShift (x : Int) (n : Nat) : Int := x / pow2 n

/-- `~x`, which equals `-x - 1` (R10). -/
def bitNot (x : Int) : Int := -x - 1

/-- `clamp16(x)` (R10). -/
def clamp16 (x : Int) : Int := min (max x min16) max16

/-- `clamp32(x)` (R10). -/
def clamp32 (x : Int) : Int := min (max x min32) max32

/-- `x` is a Word16 value (R10). -/
def inRange16 (x : Int) : Bool := decide (min16 ≤ x) && decide (x ≤ max16)

/-- `x` is a Word32 value (R10). -/
def inRange32 (x : Int) : Bool := decide (min32 ≤ x) && decide (x ≤ max32)

/-- What an arithmetic command computes, whatever the flag mode (00_scope.md R8): the `result` field and the event. -/
structure Reply where
  result : Word32
  event : Bool
  deriving DecidableEq, Repr

/-- The reply of a primitive whose result is a Word16 (R54). -/
def reply16 (p : Int × Bool) : Reply := { result := sext32 (u16 p.1), event := p.2 }

/-- The reply of a primitive whose result is a Word32 (R54). -/
def reply32 (p : Int × Bool) : Reply := { result := u32 p.1, event := p.2 }

/-- The response word `{ovf_flag, ovf_event, result}` (R52). -/
def packRsp (flag event : Bool) (result : Word32) : RspWord :=
  BitVec.ofBool flag ++ BitVec.ofBool event ++ result

/-- Bit 33 of a response word (R52). -/
def rspFlag (w : RspWord) : Bool := w.getLsbD 33

/-- Bit 32 of a response word (R52). -/
def rspEvent (w : RspWord) : Bool := w.getLsbD 32

/-- Bits 31:0 of a response word (R52). -/
def rspResult (w : RspWord) : Word32 := w.extractLsb' 0 32

end Sys2Proof.Machine
end

