-- ==== Sys2Proof/Config.lean ====
section
/-! DEFINITION. The build parameters of STL-CORE (00_scope.md R6). They are "arguments of the step function" and not the
block's state; since the host fixes the type of `step`, State carries them in one field that no step writes (log entry 1). -/
namespace Sys2Proof

/-- FLAG_MODE: where the overflow flag lives (R6; 10_state.md R22 to R24). -/
inductive FlagMode where
  | shared
  | explicit
  deriving DecidableEq, Repr

/-- ERR_POLICY: what DIV_S does on a domain error (R6; 45_division.md R143 to R145). -/
inductive ErrPolicy where
  | abort
  | continueMax
  | continueAbs
  deriving DecidableEq, Repr

/-- The five parameters of R6. -/
structure Config where
  /-- FLAG_MODE. -/
  flagMode : FlagMode
  /-- NCTX, the number of overflow flags; used only in SHARED mode. -/
  nctx : Nat
  /-- ERR_POLICY. -/
  errPolicy : ErrPolicy
  /-- RND_SH, the distance of the rounding stage of MAC_R and MSU_R; 15 for this hardware. -/
  rndSh : Nat
  /-- LATENCY, which no rule reads (70_reset_and_hazards.md R187). -/
  latency : Nat
  deriving DecidableEq, Repr

/-- The ranges of R6; any other value is "not a configuration of this hardware" (93_implementation_defined.md U11). -/
def Config.valid (c : Config) : Bool :=
  decide (1 ≤ c.nctx) && decide (c.nctx ≤ 256) && (c.rndSh == 15 || c.rndSh == 16)

/-- The configuration of State.reset. RND_SH = 15 is the spec's value (R6). The others are left OPEN by R6: DESIGN CHOICE, the
convention of the tables of 95_test_vectors.md (log entry 1). -/
def Config.default : Config :=
  { flagMode := .shared, nctx := 1, errPolicy := .abort, rndSh := 15, latency := 0 }

end Sys2Proof
end

