-- ==== Sys2Proof/Syntax.lean ====
section
/-! DEFINITION. The commands of STL-CORE: one constructor for each row of the operation-code table (30_encoding.md R55). -/
namespace Sys2Proof

/-- The two fields of a command word that name its flag location (10_state.md R23, R24): `ovf_in`, read only in EXPLICIT
mode, and `ctx`, read only in SHARED mode. Every command carries both (R51). -/
structure FlagLoc where
  ovfIn : Bool
  ctx : BitVec 8
  deriving DecidableEq, Repr

/-- A decoded command. An operand is held at the width its type gives it (R55); the bits R53 calls ignored are not kept. -/
inductive Instr where
  /-- SATURATE wide (R70). -/
  | saturate (loc : FlagLoc) (wide : Word32)
  /-- ADD a, b (R75). -/
  | add (loc : FlagLoc) (a b : Word16)
  /-- SUB a, b (R76). -/
  | sub (loc : FlagLoc) (a b : Word16)
  /-- NEGATE a (R77). -/
  | negate (loc : FlagLoc) (a : Word16)
  /-- L_ADD a, b (R78). -/
  | lAdd (loc : FlagLoc) (a b : Word32)
  /-- L_SUB a, b (R79). -/
  | lSub (loc : FlagLoc) (a b : Word32)
  /-- L_NEGATE a (R80). -/
  | lNegate (loc : FlagLoc) (a : Word32)
  /-- MULT a, b (R90). -/
  | mult (loc : FlagLoc) (a b : Word16)
  /-- MULT_R a, b (R91). -/
  | multR (loc : FlagLoc) (a b : Word16)
  /-- L_MULT a, b (R92). -/
  | lMult (loc : FlagLoc) (a b : Word16)
  /-- L_MAC acc, x, y (R93). -/
  | lMac (loc : FlagLoc) (acc : Word32) (x y : Word16)
  /-- L_MSU acc, x, y (R94). -/
  | lMsu (loc : FlagLoc) (acc : Word32) (x y : Word16)
  /-- L_MACNS acc, x, y (R97). -/
  | lMacNs (loc : FlagLoc) (acc : Word32) (x y : Word16)
  /-- L_MSUNS acc, x, y (R98). -/
  | lMsuNs (loc : FlagLoc) (acc : Word32) (x y : Word16)
  /-- MAC_R acc, x, y (R100). -/
  | macR (loc : FlagLoc) (acc : Word32) (x y : Word16)
  /-- MSU_R acc, x, y (R101). -/
  | msuR (loc : FlagLoc) (acc : Word32) (x y : Word16)
  /-- SHL a, n (R113). -/
  | shl (loc : FlagLoc) (a n : Word16)
  /-- SHR a, n (R114). -/
  | shr (loc : FlagLoc) (a n : Word16)
  /-- L_SHL a, n (R117). -/
  | lShl (loc : FlagLoc) (a : Word32) (n : Word16)
  /-- L_SHR a, n (R118). -/
  | lShr (loc : FlagLoc) (a : Word32) (n : Word16)
  /-- L_SHR_R a, n (R119). -/
  | lShrR (loc : FlagLoc) (a : Word32) (n : Word16)
  /-- NORM_S a (R130). -/
  | normS (loc : FlagLoc) (a : Word16)
  /-- NORM_L a (R131). -/
  | normL (loc : FlagLoc) (a : Word32)
  /-- DIV_S num, den (R140). -/
  | divS (loc : FlagLoc) (num den : Word16)
  /-- RDOVF (R150). -/
  | rdovf (loc : FlagLoc)
  /-- WROVF v, the one-bit operand `a[0]` (R151, R53). -/
  | wrovf (loc : FlagLoc) (v : Bool)
  deriving DecidableEq, Repr

end Sys2Proof
end

