-- ==== Sys2Proof/Decode.lean ====
section
/-! DEFINITION. The command word's fields, the decoder and the encoder (30_encoding.md R51, R53, R55 to R59). The decoder reads the word
alone; that 0x19 and 0x1A are reserved in EXPLICIT mode (46_flag_access.md R152) is tested where the parameters are known, in
the meanings of RDOVF and WROVF (log entry 6). -/
namespace Sys2Proof

/-- Bits 95:90 (R51). -/
def CmdWord.op (w : CmdWord) : BitVec 6 := w.extractLsb' 90 6

/-- Bit 89 (R51). -/
def CmdWord.ovfIn (w : CmdWord) : Bool := w.getLsbD 89

/-- Bit 88, reserved (R51, R57). -/
def CmdWord.rsv0 (w : CmdWord) : Bool := w.getLsbD 88

/-- Bits 87:80 (R51). -/
def CmdWord.ctx (w : CmdWord) : BitVec 8 := w.extractLsb' 80 8

/-- Bits 79:48 (R51). -/
def CmdWord.a (w : CmdWord) : Word32 := w.extractLsb' 48 32

/-- Bits 47:16 (R51). -/
def CmdWord.b (w : CmdWord) : Word32 := w.extractLsb' 16 32

/-- Bits 15:0 (R51). -/
def CmdWord.c (w : CmdWord) : Word16 := w.extractLsb' 0 16

/-- Bits 95:80: what a decode fault records (60_exceptions.md R161). -/
def CmdWord.head (w : CmdWord) : BitVec 16 := w.extractLsb' 80 16

/-- The flag location a word names (R51). -/
def CmdWord.loc (w : CmdWord) : FlagLoc := { ovfIn := CmdWord.ovfIn w, ctx := CmdWord.ctx w }

/-- A Word16 operand in field `a`: its low half, the upper half ignored (R53). -/
def CmdWord.a16 (w : CmdWord) : Word16 := (CmdWord.a w).setWidth 16

/-- A Word16 operand in field `b`: its low half, the upper half ignored (R53). -/
def CmdWord.b16 (w : CmdWord) : Word16 := (CmdWord.b w).setWidth 16

/-- Why a command word is no command under any parameters (R56, R57). -/
inductive Reject where
  /-- `rsv0 = 1` (R57). -/
  | reservedBit
  /-- `op = 0x00` or `op` in 0x1B to 0x3F (R56). -/
  | reservedOp
  deriving DecidableEq, Repr

/-- The decoder, total on every command word (R55 to R57, R60 step 1). -/
def decode (w : CmdWord) : Except Reject Instr :=
  if CmdWord.rsv0 w then .error .reservedBit
  else
    match (CmdWord.op w).toNat with
    | 0x01 => .ok (.saturate (CmdWord.loc w) (CmdWord.a w))
    | 0x02 => .ok (.add (CmdWord.loc w) (CmdWord.a16 w) (CmdWord.b16 w))
    | 0x03 => .ok (.sub (CmdWord.loc w) (CmdWord.a16 w) (CmdWord.b16 w))
    | 0x04 => .ok (.negate (CmdWord.loc w) (CmdWord.a16 w))
    | 0x05 => .ok (.lAdd (CmdWord.loc w) (CmdWord.a w) (CmdWord.b w))
    | 0x06 => .ok (.lSub (CmdWord.loc w) (CmdWord.a w) (CmdWord.b w))
    | 0x07 => .ok (.lNegate (CmdWord.loc w) (CmdWord.a w))
    | 0x08 => .ok (.mult (CmdWord.loc w) (CmdWord.a16 w) (CmdWord.b16 w))
    | 0x09 => .ok (.multR (CmdWord.loc w) (CmdWord.a16 w) (CmdWord.b16 w))
    | 0x0A => .ok (.lMult (CmdWord.loc w) (CmdWord.a16 w) (CmdWord.b16 w))
    | 0x0B => .ok (.lMac (CmdWord.loc w) (CmdWord.a w) (CmdWord.b16 w) (CmdWord.c w))
    | 0x0C => .ok (.lMsu (CmdWord.loc w) (CmdWord.a w) (CmdWord.b16 w) (CmdWord.c w))
    | 0x0D => .ok (.lMacNs (CmdWord.loc w) (CmdWord.a w) (CmdWord.b16 w) (CmdWord.c w))
    | 0x0E => .ok (.lMsuNs (CmdWord.loc w) (CmdWord.a w) (CmdWord.b16 w) (CmdWord.c w))
    | 0x0F => .ok (.macR (CmdWord.loc w) (CmdWord.a w) (CmdWord.b16 w) (CmdWord.c w))
    | 0x10 => .ok (.msuR (CmdWord.loc w) (CmdWord.a w) (CmdWord.b16 w) (CmdWord.c w))
    | 0x11 => .ok (.shl (CmdWord.loc w) (CmdWord.a16 w) (CmdWord.b16 w))
    | 0x12 => .ok (.shr (CmdWord.loc w) (CmdWord.a16 w) (CmdWord.b16 w))
    | 0x13 => .ok (.lShl (CmdWord.loc w) (CmdWord.a w) (CmdWord.b16 w))
    | 0x14 => .ok (.lShr (CmdWord.loc w) (CmdWord.a w) (CmdWord.b16 w))
    | 0x15 => .ok (.lShrR (CmdWord.loc w) (CmdWord.a w) (CmdWord.b16 w))
    | 0x16 => .ok (.normS (CmdWord.loc w) (CmdWord.a16 w))
    | 0x17 => .ok (.normL (CmdWord.loc w) (CmdWord.a w))
    | 0x18 => .ok (.divS (CmdWord.loc w) (CmdWord.a16 w) (CmdWord.b16 w))
    | 0x19 => .ok (.rdovf (CmdWord.loc w))
    | 0x1A => .ok (.wrovf (CmdWord.loc w) ((CmdWord.a w).getLsbD 0))
    | _ => .error .reservedOp

/-- The bits above the operand fields, `{op, ovf_in, rsv0, ctx}` (R51). -/
def packHead (op : BitVec 6) (ovfIn rsv0 : Bool) (ctx : BitVec 8) : BitVec 16 :=
  op ++ BitVec.ofBool ovfIn ++ BitVec.ofBool rsv0 ++ ctx

/-- A command word from its fields (R51). -/
def packCmd (head : BitVec 16) (a b : Word32) (c : Word16) : CmdWord := head ++ a ++ b ++ c

/-- The operation code of a command (R55). -/
def Instr.opcode : Instr → BitVec 6
  | .saturate _ _ => 0x01
  | .add _ _ _ => 0x02
  | .sub _ _ _ => 0x03
  | .negate _ _ => 0x04
  | .lAdd _ _ _ => 0x05
  | .lSub _ _ _ => 0x06
  | .lNegate _ _ => 0x07
  | .mult _ _ _ => 0x08
  | .multR _ _ _ => 0x09
  | .lMult _ _ _ => 0x0A
  | .lMac _ _ _ _ => 0x0B
  | .lMsu _ _ _ _ => 0x0C
  | .lMacNs _ _ _ _ => 0x0D
  | .lMsuNs _ _ _ _ => 0x0E
  | .macR _ _ _ _ => 0x0F
  | .msuR _ _ _ _ => 0x10
  | .shl _ _ _ => 0x11
  | .shr _ _ _ => 0x12
  | .lShl _ _ _ => 0x13
  | .lShr _ _ _ => 0x14
  | .lShrR _ _ _ => 0x15
  | .normS _ _ => 0x16
  | .normL _ _ => 0x17
  | .divS _ _ _ => 0x18
  | .rdovf _ => 0x19
  | .wrovf _ _ => 0x1A

/-- The flag location of a command (R51). -/
def Instr.loc : Instr → FlagLoc
  | .saturate l _ => l
  | .add l _ _ => l
  | .sub l _ _ => l
  | .negate l _ => l
  | .lAdd l _ _ => l
  | .lSub l _ _ => l
  | .lNegate l _ => l
  | .mult l _ _ => l
  | .multR l _ _ => l
  | .lMult l _ _ => l
  | .lMac l _ _ _ => l
  | .lMsu l _ _ _ => l
  | .lMacNs l _ _ _ => l
  | .lMsuNs l _ _ _ => l
  | .macR l _ _ _ => l
  | .msuR l _ _ _ => l
  | .shl l _ _ => l
  | .shr l _ _ => l
  | .lShl l _ _ => l
  | .lShr l _ _ => l
  | .lShrR l _ _ => l
  | .normS l _ => l
  | .normL l _ => l
  | .divS l _ _ => l
  | .rdovf l => l
  | .wrovf l _ => l

/-- Bits 95:80 of a command's word; `rsv0` is 0 in every one (R57). -/
def Instr.head (i : Instr) : BitVec 16 :=
  packHead i.opcode i.loc.ovfIn false i.loc.ctx

/-- The operand fields `a`, `b`, `c` of a command (R55). The ignored bits are filled as the assembler fills them: the upper half of
a Word16 operand with its sign, an unused field with 0 (R61, log entry 7). -/
def Instr.fields : Instr → Word32 × Word32 × Word16
  | .saturate _ w => (w, 0, 0)
  | .add _ a b => (a.signExtend 32, b.signExtend 32, 0)
  | .sub _ a b => (a.signExtend 32, b.signExtend 32, 0)
  | .negate _ a => (a.signExtend 32, 0, 0)
  | .lAdd _ a b => (a, b, 0)
  | .lSub _ a b => (a, b, 0)
  | .lNegate _ a => (a, 0, 0)
  | .mult _ a b => (a.signExtend 32, b.signExtend 32, 0)
  | .multR _ a b => (a.signExtend 32, b.signExtend 32, 0)
  | .lMult _ a b => (a.signExtend 32, b.signExtend 32, 0)
  | .lMac _ acc x y => (acc, x.signExtend 32, y)
  | .lMsu _ acc x y => (acc, x.signExtend 32, y)
  | .lMacNs _ acc x y => (acc, x.signExtend 32, y)
  | .lMsuNs _ acc x y => (acc, x.signExtend 32, y)
  | .macR _ acc x y => (acc, x.signExtend 32, y)
  | .msuR _ acc x y => (acc, x.signExtend 32, y)
  | .shl _ a n => (a.signExtend 32, n.signExtend 32, 0)
  | .shr _ a n => (a.signExtend 32, n.signExtend 32, 0)
  | .lShl _ a n => (a, n.signExtend 32, 0)
  | .lShr _ a n => (a, n.signExtend 32, 0)
  | .lShrR _ a n => (a, n.signExtend 32, 0)
  | .normS _ a => (a.signExtend 32, 0, 0)
  | .normL _ a => (a, 0, 0)
  | .divS _ num den => (num.signExtend 32, den.signExtend 32, 0)
  | .rdovf _ => (0, 0, 0)
  | .wrovf _ v => ((BitVec.ofBool v).setWidth 32, 0, 0)

/-- The encoder (R51, R55, R61). -/
def encode (i : Instr) : CmdWord := packCmd i.head i.fields.1 i.fields.2.1 i.fields.2.2

/-- The command word whose low `nbits` bits are those of `w` and whose other bits are 0. A command word is handed over whole
(20_memory.md R41, R44): it has no byte order. -/
def tableWord (nbits w : Nat) : CmdWord := BitVec.ofNat 96 (w % 2 ^ nbits)

/-- The command the decoder reads from the bits `w`, numbered as the operation-code table numbers them. -/
def decodeTableWord (nbits w : Nat) : Option Instr :=
  match decode (tableWord nbits w) with
  | .ok i => some i
  | .error _ => none

/-- The pseudo-command CLROVF ctx=k, which is WROVF 0 (R62). -/
def Instr.clrovf (ctx : BitVec 8) : Instr := .wrovf { ovfIn := false, ctx := ctx } false

/-- The pseudo-command SETOVF ctx=k, which is WROVF 1 (R62). -/
def Instr.setovf (ctx : BitVec 8) : Instr := .wrovf { ovfIn := false, ctx := ctx } true

end Sys2Proof
end

