-- ==== Sys2Proof/Machine/State.lean ====
section
/-! DEFINITION. The state of STL-CORE as plain data (10_state.md R22, R28, R29), with the port's handshake (30_encoding.md R50), the
requester's moves (70_reset_and_hazards.md R189) and the build parameters (00_scope.md R6). -/
namespace Sys2Proof.Machine

/-- The value of CAUSE, by name (R28, R160). -/
inductive Cause where
  | none
  | divDomain
  | illegalOp
  | badCtx
  deriving DecidableEq, Repr

/-- One move of the requester (R189). A move that cannot complete yet waits (log entry 4). -/
inductive Move where
  /-- Drive `req_valid = 1` with this word on `req_cw` until it is accepted. -/
  | offer (cw : CmdWord)
  /-- Hold `rsp_ready = 1` until a response has been delivered. -/
  | take
  /-- Drive `rst_n` to 0 (R180). -/
  | resetLow
  /-- Return `rst_n` to 1 (R180). -/
  | resetHigh
  deriving DecidableEq, Repr

/-- The one way a step stops for good. The block's own three faults are not here: raising one is a next state (R163). -/
inductive Fault where
  /-- Raised by `step` on a state with HALTED = 1 whose next requester move does not pull reset: the block accepts nothing, there is
  no step (60_exceptions.md R164, R169; 93_implementation_defined.md U9). `c` is what CAUSE holds. Safe: the hardware does
  nothing either (log entry 3). -/
  | halted (c : Cause)
  deriving DecidableEq, Repr

/-- What the model does not accept. -/
inductive Refusal where
  /-- An instruction without a meaning. No arm of `exec` answers it: every row of the operation-code table has its meaning. Safe. -/
  | notModelled (mnemonic : String)
  /-- Raised by `step` when the parameters are outside their ranges: "not a configuration of this hardware" (R6;
  93_implementation_defined.md U11). Safe: no such block exists. -/
  | badConfig
  deriving DecidableEq, Repr

/-- What can be observed of a run that reset has ended (R188), with the requester's own part of it (R189). -/
structure RunRecord where
  /-- The command words accepted in the run, in acceptance order. -/
  accepted : List CmdWord
  /-- The response words delivered in the run, in acceptance order. -/
  delivered : List RspWord
  /-- The command words the requester set out to send in the run that were not accepted. -/
  unsent : List CmdWord
  /-- The `OVF` bank when the run ended, as its last completed command left it. -/
  ovf : List Bool
  /-- HALTED when the run ended. -/
  halted : Bool
  /-- CAUSE when the run ended. -/
  cause : Cause
  /-- INFO when the run ended. -/
  info : BitVec 32
  deriving DecidableEq, Repr

/-- The state. `ovf`, `halted`, `cause` and `info` are the spec's tuple (R29); `req`, `rsp` and `rstN` are the port's signals (R50);
`cfg`, `moves` and the account of the runs, `accepted`, `delivered` and `past`, are the model's own (log entries 1, 2 and 16). -/
structure State where
  /-- The build parameters; no step writes them (R6, R185). -/
  cfg : Config
  /-- `OVF[0..NCTX-1]` in SHARED mode, no registers in EXPLICIT mode (R22). -/
  ovf : List Bool
  /-- HALTED (R28). -/
  halted : Bool
  /-- CAUSE (R28). -/
  cause : Cause
  /-- INFO (R28, R161). -/
  info : BitVec 32
  /-- The command word offered and not yet accepted: `req_valid` and `req_cw` (R50). -/
  req : Option CmdWord
  /-- The response word offered and not yet delivered: `rsp_valid` and `rsp_rw` (R50). -/
  rsp : Option RspWord
  /-- The level of the reset input `rst_n` (R50, R180). -/
  rstN : Bool
  /-- The requester's moves still to come, first first (R189). -/
  moves : List Move
  /-- The command words accepted in the current run, in acceptance order (R188). -/
  accepted : List CmdWord
  /-- The response words the requester has received in the current run, in acceptance order (R188). -/
  delivered : List RspWord
  /-- The runs that a reset has ended, oldest first: what they delivered stays with the requester (R181, R188). -/
  past : List RunRecord
  deriving DecidableEq, Repr

/-- The flag bank right after reset: `OVF[k] = 0` for every `k` in SHARED mode, no bank in EXPLICIT mode (R22, R32). -/
def resetBank (c : Config) : List Bool :=
  match c.flagMode with
  | .shared => List.replicate c.nctx false
  | .explicit => []

/-- A block of the given parameters just after `rst_n` returned to 1 (R32, R180), with a requester that has made no move. -/
def State.resetWith (c : Config) : State :=
  { cfg := c, ovf := resetBank c, halted := false, cause := .none, info := 0
    req := none, rsp := none, rstN := true, moves := []
    accepted := [], delivered := [], past := [] }

/-- The machine right after reset, under the parameters of `Config.default` (log entry 1). -/
def State.reset : State := State.resetWith Config.default

end Sys2Proof.Machine
end

