-- ==== Sys2Proof/Machine/Flags.lean ====
section
/-! DEFINITION. The overflow flag: the bank, the flag location in both modes and its sticky update (10_state.md R22 to R25). -/
namespace Sys2Proof.Machine

/-- `OVF[k]` (R22). A register outside the bank, which no accepted command reads (R166), reads as 0 (log entry 8). -/
def State.readOvf (s : State) (k : BitVec 8) : Bool := s.ovf.getD k.toNat false

/-- `OVF[k] <- v` (R11, R22); no other register of the bank changes (R23). -/
def State.writeOvf (s : State) (k : BitVec 8) (v : Bool) : State :=
  { s with ovf := s.ovf.set k.toNat v }

/-- `f_old`: what the flag location of a command holds before it (R23, R24). -/
def State.flagBefore (s : State) (l : FlagLoc) : Bool :=
  match s.cfg.flagMode with
  | .shared => s.readOvf l.ctx
  | .explicit => l.ovfIn

/-- `f_new = f_old | e` (R23, R24, R25). -/
def State.flagAfter (s : State) (l : FlagLoc) (e : Bool) : Bool := s.flagBefore l || e

/-- The state's part of the flag update: the bank in SHARED mode, nothing in EXPLICIT mode (R23, R24). -/
def State.updateFlag (s : State) (l : FlagLoc) (e : Bool) : State :=
  match s.cfg.flagMode with
  | .shared => s.writeOvf l.ctx (s.flagAfter l e)
  | .explicit => s

end Sys2Proof.Machine
end

