-- ==== Sys2Proof/WellFormed.lean ====
section
/-! DEFINITION. When a command is one that a block of given parameters executes: the tests of 30_encoding.md R60 steps 1 and 2 that a
decoded command can still fail. Every other check of a command's form is in its type. -/
namespace Sys2Proof

/-- The flag-access commands (46_flag_access.md). -/
def Instr.isFlagAccess : Instr → Bool
  | .rdovf _ => true
  | .wrovf _ _ => true
  | .saturate _ _ | .add _ _ _ | .sub _ _ _ | .negate _ _ | .lAdd _ _ _ | .lSub _ _ _ | .lNegate _ _
  | .mult _ _ _ | .multR _ _ _ | .lMult _ _ _ | .lMac _ _ _ _ | .lMsu _ _ _ _ | .lMacNs _ _ _ _
  | .lMsuNs _ _ _ _ | .macR _ _ _ _ | .msuR _ _ _ _ | .shl _ _ _ | .shr _ _ _ | .lShl _ _ _ | .lShr _ _ _
  | .lShrR _ _ _ | .normS _ _ | .normL _ _ | .divS _ _ _ => false

/-- The operation code is assigned under these parameters: 0x19 and 0x1A are reserved in EXPLICIT mode (R56, R152). -/
def Instr.assigned (c : Config) (i : Instr) : Bool :=
  match c.flagMode with
  | .shared => true
  | .explicit => !i.isFlagAccess

/-- The context a flag location names exists: in SHARED mode `ctx < NCTX`; in EXPLICIT mode `ctx` is ignored
(60_exceptions.md R166). -/
def FlagLoc.present (c : Config) (l : FlagLoc) : Bool :=
  match c.flagMode with
  | .shared => decide (l.ctx.toNat < c.nctx)
  | .explicit => true

/-- A command that passes the tests of R60 steps 1 and 2. -/
def Instr.wellFormed (c : Config) (i : Instr) : Bool := i.assigned c && i.loc.present c

end Sys2Proof
end

