-- ==== Sys2Proof/Machine/Ops.lean ====
section
/-! DEFINITION. The operations every meaning shares: raising a fault, responding, reset, and the frame around an arithmetic command
(30_encoding.md R60; 60_exceptions.md R163, R166; 70_reset_and_hazards.md R180). -/
namespace Sys2Proof.Machine

/-- `raise Fault(cause, info)`: the latch is written, no response is produced, the bank is not touched, nothing else is saved and
control goes nowhere (R163). Taking a fault is a next state; the way back is `State.assertReset` (R169). -/
def State.raiseFault (s : State) (c : Cause) (info : BitVec 32) : State :=
  { s with halted := true, cause := c, info := info }

/-- The code of CAUSE on `fault_cause[1:0]` (R28, R50). -/
def Cause.code : Cause → BitVec 2
  | .none => 0
  | .divDomain => 1
  | .illegalOp => 2
  | .badCtx => 3

/-- `respond(result, event, flag)` (R11, R52): the response word is offered on the port. -/
def State.respond (s : State) (result : Word32) (event flag : Bool) : State :=
  { s with rsp := some (packRsp flag event result) }

/-- R60 steps 5 and 6: the flag location is updated and the response is produced. -/
def State.answer (s : State) (l : FlagLoc) (r : Reply) : State :=
  (s.updateFlag l r.event).respond r.result r.event (s.flagAfter l r.event)

/-- The context test of R60 step 2 fails: SHARED mode and `ctx >= NCTX` (R166). -/
def State.badContext (s : State) (l : FlagLoc) : Bool := !l.present s.cfg

/-- `raise Fault(BAD_CTX, zext_32(CW[95:80]))` for a decoded command (R60 step 2, R161; log entry 5). -/
def State.raiseBadCtx (s : State) (i : Instr) : State := s.raiseFault .badCtx (zext32 i.head)

/-- `raise Fault(ILLEGAL_OP, zext_32(CW[95:80]))` for a decoded command (R60 step 1, R152, R161; log entry 5). -/
def State.raiseIllegal (s : State) (i : Instr) : State := s.raiseFault .illegalOp (zext32 i.head)

/-- R60 steps 2, 4, 5 and 6 for an arithmetic command that cannot fault on its operands. -/
def runArith (i : Instr) (r : Reply) (s : State) : Host.Outcome State Fault Refusal :=
  if s.badContext i.loc then .next (s.raiseBadCtx i) else .next (s.answer i.loc r)

/-- The command words among the requester's moves before it next pulls reset: what it has yet to offer in the current run (R188;
log entry 16). -/
def stillToSend : List Move → List CmdWord
  | [] => []
  | .offer cw :: ms => cw :: stillToSend ms
  | .take :: ms => stillToSend ms
  | .resetLow :: _ => []
  | .resetHigh :: ms => stillToSend ms

/-- The current run as it stands (R188). -/
def State.runRecord (s : State) : RunRecord :=
  { accepted := s.accepted, delivered := s.delivered, unsent := s.req.toList ++ stillToSend s.moves
    ovf := s.ovf, halted := s.halted, cause := s.cause, info := s.info }

/-- The word at the port is accepted into the current run (R50, R188). -/
def State.consume (s : State) (cw : CmdWord) : State :=
  { s with req := none, accepted := s.accepted ++ [cw] }

/-- The runs that are over once reset is low: the current one ends with them, unless reset was low already (R188; log entry 16). -/
def State.pastAfterReset (s : State) : List RunRecord :=
  if s.rstN then s.past ++ [s.runRecord] else s.past

/-- The state while `rst_n = 0` (R32, R180): the latch cleared, every flag 0, an undelivered response discarded (R181), and the
current run, with the responses it delivered (R181), put on record. The parameters and what the requester drives are not the
block's to reset. -/
def State.assertReset (s : State) : State :=
  { s with
    ovf := resetBank s.cfg, halted := false, cause := .none, info := 0, rsp := none, rstN := false
    accepted := [], delivered := [], past := s.pastAfterReset }

/-- `rst_n` returns to 1 (R180). -/
def State.releaseReset (s : State) : State := { s with rstN := true }

/-- `req_ready` (R50, R164, R180): a command is in the block until its response is delivered. -/
def State.reqReady (s : State) : Bool := s.rstN && !s.halted && s.rsp.isNone

/-- `rsp_valid` and `rsp_rw`: no response is offered while `HALTED = 1` or `rst_n = 0` (R50, R164, R180). -/
def State.rspOffered (s : State) : Option RspWord := if s.rstN && !s.halted then s.rsp else none

/-- The command word that transfers at the next edge: `req_valid = req_ready = 1` (R50). -/
def State.accepting (s : State) : Option CmdWord := if s.reqReady then s.req else none

/-- The output pins of the block (R50), which the requester may read at any time (R189). -/
structure Pins where
  reqReady : Bool
  rsp : Option RspWord
  halted : Bool
  faultCause : BitVec 2
  faultInfo : BitVec 32
  deriving DecidableEq, Repr

/-- The levels of the output pins in a state (R28, R50). -/
def State.pins (s : State) : Pins :=
  { reqReady := s.reqReady, rsp := s.rspOffered, halted := s.halted
    faultCause := s.cause.code, faultInfo := s.info }

/-- The response transfers: `rsp_valid = rsp_ready = 1` (R50). -/
def State.deliver (s : State) : State :=
  match s.rspOffered with
  | some r => { s with rsp := none, delivered := s.delivered ++ [r] }
  | none => s

/-- The requester's next move pulls reset. -/
def State.resetNext (s : State) : Bool :=
  match s.moves with
  | .resetLow :: _ => true
  | _ => false

/-- The requester's next move, where it can complete; otherwise the requester waits and nothing changes (R50, R189; log entry 4). -/
def State.playMove (s : State) : State :=
  match s.moves with
  | [] => s
  | .offer cw :: ms => if s.req.isNone then { s with req := some cw, moves := ms } else s
  | .take :: ms => if s.rspOffered.isSome then { s.deliver with moves := ms } else s
  | .resetLow :: ms => { s.assertReset with moves := ms }
  | .resetHigh :: ms => { s.releaseReset with moves := ms }

end Sys2Proof.Machine
end

