-- ==== Sys2Proof/Machine/Saturation.lean ====
section
/-! DEFINITION. SaturationCore: the function `saturate` and the command SATURATE (40_saturation.md). -/
namespace Sys2Proof.Machine

/-- `saturate(w)`: the single point where 32 to 16 bit narrowing is done (R71). -/
def saturate (w : Int) : Int × Bool :=
  if w > max16 then (max16, true)
  else if w < min16 then (min16, true)
  else (w, false)

/-- SATURATE wide (R70). -/
def execSaturate (loc : FlagLoc) (wide : Word32) (s : State) : Host.Outcome State Fault Refusal :=
  runArith (.saturate loc wide) (reply16 (saturate (s32 wide))) s

end Sys2Proof.Machine
end

