-- ==== Sys2Proof/Machine/Additive.lean ====
section
/-! DEFINITION. AdditiveOps (41_additive.md). The 32-bit forms find the overflow by sign bits, as the rules write them. -/
namespace Sys2Proof.Machine

/-- `add(a, b)` (R75). -/
def add16 (a b : Int) : Int × Bool := saturate (a + b)

/-- `sub(a, b)` (R76). -/
def sub16 (a b : Int) : Int × Bool := saturate (a - b)

/-- `negate(a)` (R77). -/
def negate16 (a : Int) : Int × Bool := if a = min16 then (max16, true) else (-a, false)

/-- `sign(x) = 1`: `x < 0` (R10). -/
def isNeg (x : Int) : Bool := decide (x < 0)

/-- The bound on the side of `a`: MIN_32 if `a < 0`, else MAX_32 (R78, R79). -/
def bound32 (a : Int) : Int := if a < 0 then min32 else max32

/-- `L_add(a, b)`: overflow when `a` and `b` share a sign and the 32-bit sum has the other (R78). -/
def lAdd (a b : Int) : Int × Bool :=
  if isNeg a == isNeg b && isNeg (wrap32 (a + b)) != isNeg a then (bound32 a, true)
  else (wrap32 (a + b), false)

/-- `L_sub(a, b)`: overflow when the signs differ and the 32-bit difference has not the sign of `a` (R79). -/
def lSub (a b : Int) : Int × Bool :=
  if isNeg a != isNeg b && isNeg (wrap32 (a - b)) != isNeg a then (bound32 a, true)
  else (wrap32 (a - b), false)

/-- `L_negate(a) = L_sub(0, a)` (R80). -/
def lNegate (a : Int) : Int × Bool := lSub 0 a

/-- ADD a, b (R75). -/
def execAdd (loc : FlagLoc) (a b : Word16) (s : State) : Host.Outcome State Fault Refusal :=
  runArith (.add loc a b) (reply16 (add16 (s16 a) (s16 b))) s

/-- SUB a, b (R76). -/
def execSub (loc : FlagLoc) (a b : Word16) (s : State) : Host.Outcome State Fault Refusal :=
  runArith (.sub loc a b) (reply16 (sub16 (s16 a) (s16 b))) s

/-- NEGATE a (R77). -/
def execNegate (loc : FlagLoc) (a : Word16) (s : State) : Host.Outcome State Fault Refusal :=
  runArith (.negate loc a) (reply16 (negate16 (s16 a))) s

/-- L_ADD a, b (R78). -/
def execLAdd (loc : FlagLoc) (a b : Word32) (s : State) : Host.Outcome State Fault Refusal :=
  runArith (.lAdd loc a b) (reply32 (lAdd (s32 a) (s32 b))) s

/-- L_SUB a, b (R79). -/
def execLSub (loc : FlagLoc) (a b : Word32) (s : State) : Host.Outcome State Fault Refusal :=
  runArith (.lSub loc a b) (reply32 (lSub (s32 a) (s32 b))) s

/-- L_NEGATE a (R80). -/
def execLNegate (loc : FlagLoc) (a : Word32) (s : State) : Host.Outcome State Fault Refusal :=
  runArith (.lNegate loc a) (reply32 (lNegate (s32 a))) s

end Sys2Proof.Machine
end

