-- ==== Sys2Proof/Machine/Division.lean ====
section
/-! DEFINITION. DivisionOp and the error policy (45_division.md). -/
namespace Sys2Proof.Machine

/-- `DomainError(num, den)` (R141). -/
def domainError (num den : Int) : Bool :=
  decide (den = 0) || decide (num < 0) || decide (den < 0) || decide (num > den)

/-- One iteration of the restoring division on the running quotient and the remaining numerator (R142). -/
def divStep (den : Int) (p : Int × Int) : Int × Int :=
  if 2 * p.2 ≥ den then (2 * p.1 + 1, 2 * p.2 - den) else (2 * p.1, 2 * p.2)

/-- `n` iterations (R142). -/
def divLoop (den : Int) : Nat → Int × Int → Int × Int
  | 0, p => p
  | n + 1, p => divLoop den n (divStep den p)

/-- `div_core(num, den)` (R142). -/
def divCore (num den : Int) : Int × Bool :=
  if num = 0 then (0, false)
  else if num ≥ den then (max16, false)
  else ((divLoop den 15 (0, num)).1, false)

/-- The clamped absolute value of CONTINUE_ABS: -32768 goes to 32767, with no event (R145). -/
def abs16 (x : Int) : Int := if x = min16 then max16 else if x < 0 then -x else x

/-- `div_s(num, den)` under a policy; `none` is the domain error that ABORT makes a fault (R140, R143 to R145). -/
def divS16 (p : ErrPolicy) (num den : Int) : Option (Int × Bool) :=
  if domainError num den then
    match p with
    | .abort => none
    | .continueMax => some (max16, false)
    | .continueAbs =>
      if abs16 den = 0 then some (max16, false) else some (divCore (abs16 num) (abs16 den))
  else some (divCore num den)

/-- DIV_S num, den. A domain error under ABORT raises DIV_DOMAIN with the two operands in INFO, after the tests every command has
(R140, R143, R161, R167). -/
def execDivS (loc : FlagLoc) (num den : Word16) (s : State) : Host.Outcome State Fault Refusal :=
  match divS16 s.cfg.errPolicy (s16 num) (s16 den) with
  | some p => runArith (.divS loc num den) (reply16 p) s
  | none =>
    if s.badContext loc then .next (s.raiseBadCtx (.divS loc num den))
    else .next (s.raiseFault .divDomain (den ++ num))

end Sys2Proof.Machine
end

