-- ==== Sys2Proof/Machine/FlagAccess.lean ====
section
/-! DEFINITION. The flag-access commands (46_flag_access.md). In EXPLICIT mode there is no bank and both codes are reserved (R152). -/
namespace Sys2Proof.Machine

/-- RDOVF (R150, R152). -/
def execRdovf (loc : FlagLoc) (s : State) : Host.Outcome State Fault Refusal :=
  if s.cfg.flagMode = .explicit then .next (s.raiseIllegal (.rdovf loc))
  else if s.badContext loc then .next (s.raiseBadCtx (.rdovf loc))
  else .next (s.respond (bit32 (s.readOvf loc.ctx)) false (s.readOvf loc.ctx))

/-- WROVF v: the result is the old value, the response's flag the new one (R151, R152). -/
def execWrovf (loc : FlagLoc) (v : Bool) (s : State) : Host.Outcome State Fault Refusal :=
  if s.cfg.flagMode = .explicit then .next (s.raiseIllegal (.wrovf loc v))
  else if s.badContext loc then .next (s.raiseBadCtx (.wrovf loc v))
  else .next ((s.writeOvf loc.ctx v).respond (bit32 (s.readOvf loc.ctx)) false v)

end Sys2Proof.Machine
end

