-- ==== Sys2Proof/Machine/Multiplicative.lean ====
section
/-! DEFINITION. MultiplicativeOps (42_multiplicative.md). -/
namespace Sys2Proof.Machine

/-- `mult(a, b)`: the exact product floored at 15 places, then saturated (R90). -/
def mult16 (a b : Int) : Int × Bool := saturate (floorShift (a * b) 15)

/-- The 32-bit pattern of `mult_r` before the saturate: add 2^14, drop the low 15 bits, shift right 15, extend bit 16 (R91). -/
def roundedProduct (a b : Int) : Word32 :=
  let v := (u32 (a * b + 0x4000) &&& 0xFFFF8000#32) >>> 15
  if v.getLsbD 16 then v ||| 0xFFFF0000#32 else v

/-- `mult_r(a, b)` (R91). -/
def multR16 (a b : Int) : Int × Bool := saturate (s32 (roundedProduct a b))

/-- `L_mult(a, b)`: the doubled product, clamped only at -32768 times -32768 (R92). -/
def lMult (a b : Int) : Int × Bool :=
  if a * b = pow2 30 then (max32, true) else (2 * (a * b), false)

/-- `L_mac(acc, x, y)`: L_add of the accumulator and L_mult, the events combined by OR (R93, R96). -/
def lMac (acc x y : Int) : Int × Bool :=
  ((lAdd acc (lMult x y).1).1, (lMult x y).2 || (lAdd acc (lMult x y).1).2)

/-- `L_msu(acc, x, y)`: L_sub of the accumulator and L_mult (R94, R96). -/
def lMsu (acc x y : Int) : Int × Bool :=
  ((lSub acc (lMult x y).1).1, (lMult x y).2 || (lSub acc (lMult x y).1).2)

/-- `L_macNs(acc, x, y)`: the add wraps and never signals, the multiply still clamps and signals (R97). -/
def lMacNs (acc x y : Int) : Int × Bool := (wrap32 (acc + (lMult x y).1), (lMult x y).2)

/-- `L_msuNs(acc, x, y)`: the subtract wraps and never signals (R98). -/
def lMsuNs (acc x y : Int) : Int × Bool := (wrap32 (acc - (lMult x y).1), (lMult x y).2)

/-- The rounding stage `rnd(t)` at distance RND_SH, the sum exact (R99). -/
def rnd (rndSh : Nat) (t : Int) : Int × Bool :=
  saturate (floorShift (t + pow2 (rndSh - 1)) rndSh)

/-- `mac_r(acc, x, y)` (R100). -/
def macR (rndSh : Nat) (acc x y : Int) : Int × Bool :=
  ((rnd rndSh (lMac acc x y).1).1, (lMac acc x y).2 || (rnd rndSh (lMac acc x y).1).2)

/-- `msu_r(acc, x, y)` (R101). -/
def msuR (rndSh : Nat) (acc x y : Int) : Int × Bool :=
  ((rnd rndSh (lMsu acc x y).1).1, (lMsu acc x y).2 || (rnd rndSh (lMsu acc x y).1).2)

/-- MULT a, b (R90). -/
def execMult (loc : FlagLoc) (a b : Word16) (s : State) : Host.Outcome State Fault Refusal :=
  runArith (.mult loc a b) (reply16 (mult16 (s16 a) (s16 b))) s

/-- MULT_R a, b (R91). -/
def execMultR (loc : FlagLoc) (a b : Word16) (s : State) : Host.Outcome State Fault Refusal :=
  runArith (.multR loc a b) (reply16 (multR16 (s16 a) (s16 b))) s

/-- L_MULT a, b (R92). -/
def execLMult (loc : FlagLoc) (a b : Word16) (s : State) : Host.Outcome State Fault Refusal :=
  runArith (.lMult loc a b) (reply32 (lMult (s16 a) (s16 b))) s

/-- L_MAC acc, x, y (R93). -/
def execLMac (loc : FlagLoc) (acc : Word32) (x y : Word16) (s : State) : Host.Outcome State Fault Refusal :=
  runArith (.lMac loc acc x y) (reply32 (lMac (s32 acc) (s16 x) (s16 y))) s

/-- L_MSU acc, x, y (R94). -/
def execLMsu (loc : FlagLoc) (acc : Word32) (x y : Word16) (s : State) : Host.Outcome State Fault Refusal :=
  runArith (.lMsu loc acc x y) (reply32 (lMsu (s32 acc) (s16 x) (s16 y))) s

/-- L_MACNS acc, x, y (R97). -/
def execLMacNs (loc : FlagLoc) (acc : Word32) (x y : Word16) (s : State) : Host.Outcome State Fault Refusal :=
  runArith (.lMacNs loc acc x y) (reply32 (lMacNs (s32 acc) (s16 x) (s16 y))) s

/-- L_MSUNS acc, x, y (R98). -/
def execLMsuNs (loc : FlagLoc) (acc : Word32) (x y : Word16) (s : State) : Host.Outcome State Fault Refusal :=
  runArith (.lMsuNs loc acc x y) (reply32 (lMsuNs (s32 acc) (s16 x) (s16 y))) s

/-- MAC_R acc, x, y (R100). -/
def execMacR (loc : FlagLoc) (acc : Word32) (x y : Word16) (s : State) : Host.Outcome State Fault Refusal :=
  runArith (.macR loc acc x y) (reply16 (macR s.cfg.rndSh (s32 acc) (s16 x) (s16 y))) s

/-- MSU_R acc, x, y (R101). -/
def execMsuR (loc : FlagLoc) (acc : Word32) (x y : Word16) (s : State) : Host.Outcome State Fault Refusal :=
  runArith (.msuR loc acc x y) (reply16 (msuR s.cfg.rndSh (s32 acc) (s16 x) (s16 y))) s

end Sys2Proof.Machine
end

