-- ==== Sys2Proof/Machine/Normalization.lean ====
section
/-! DEFINITION. NormalizationOps (44_normalization.md). -/
namespace Sys2Proof.Machine

/-- `while m < threshold: m <- 2 * m; k <- k + 1`, at most `fuel` times: R130 bounds the loop by 14 doublings, and by the same
argument R131 by 30 (Laws/Normalization.lean shows that the bound is never met early). -/
def normLoop (threshold : Int) : Nat → Int → Int → Int
  | 0, _, k => k
  | fuel + 1, m, k => if m < threshold then normLoop threshold fuel (2 * m) (k + 1) else k

/-- `norm_s(a)` (R130). -/
def normS16 (a : Int) : Int × Bool :=
  if a = 0 then (0, false)
  else if a = -1 then (15, false)
  else (normLoop 0x4000 14 (if a < 0 then bitNot a else a) 0, false)

/-- `norm_l(a)` (R131). -/
def normL32 (a : Int) : Int × Bool :=
  if a = 0 then (0, false)
  else if a = -1 then (31, false)
  else (normLoop 0x40000000 30 (if a < 0 then bitNot a else a) 0, false)

/-- NORM_S a (R130). -/
def execNormS (loc : FlagLoc) (a : Word16) (s : State) : Host.Outcome State Fault Refusal :=
  runArith (.normS loc a) (reply16 (normS16 (s16 a))) s

/-- NORM_L a: the count is a Word16 result (R131). -/
def execNormL (loc : FlagLoc) (a : Word32) (s : State) : Host.Outcome State Fault Refusal :=
  runArith (.normL loc a) (reply16 (normL32 (s32 a))) s

end Sys2Proof.Machine
end

