-- ==== Sys2Proof/Machine/Shift.lean ====
section
/-! DEFINITION. ShiftOps (43_shift.md). A helper's distance is an exact natural number: a negative count `n` hands over `-n`, up to
32768, to the other direction (R112). -/
namespace Sys2Proof.Machine

/-- `shl_pos(a, n)` (R110). -/
def shlPos (a : Int) (n : Nat) : Int × Bool :=
  if (decide (n > 15) && a != 0) || !inRange16 (a * pow2 n) then
    (if a > 0 then max16 else min16, true)
  else (a * pow2 n, false)

/-- `shr_pos(a, n)`, with the complement form for a negative `a` (R111). -/
def shrPos (a : Int) (n : Nat) : Int × Bool :=
  if n ≥ 15 then (if a < 0 then -1 else 0, false)
  else if a < 0 then (bitNot (floorShift (bitNot a) n), false)
  else (floorShift a n, false)

/-- `L_shl_pos(a, n)` (R115). -/
def lShlPos (a : Int) (n : Nat) : Int × Bool :=
  if (decide (n > 31) && a != 0) || !inRange32 (a * pow2 n) then
    (if a > 0 then max32 else min32, true)
  else (a * pow2 n, false)

/-- `L_shr_pos(a, n)` (R116). -/
def lShrPos (a : Int) (n : Nat) : Int × Bool :=
  if n ≥ 31 then (if a < 0 then -1 else 0, false)
  else if a < 0 then (bitNot (floorShift (bitNot a) n), false)
  else (floorShift a n, false)

/-- `shl(a, n)`: a negative count shifts right (R113). Its value and event are the closed form of R121. -/
def shl16 (a n : Int) : Int × Bool := if n < 0 then shrPos a (-n).toNat else shlPos a n.toNat

/-- `shr(a, n)`: a negative count shifts left (R114). Its value and event are the closed form of R121. -/
def shr16 (a n : Int) : Int × Bool := if n < 0 then shlPos a (-n).toNat else shrPos a n.toNat

/-- `L_shl(a, n)` (R117). Its value and event are the closed form of R121. -/
def shl32 (a n : Int) : Int × Bool := if n < 0 then lShrPos a (-n).toNat else lShlPos a n.toNat

/-- `L_shr(a, n)` (R118). Its value and event are the closed form of R121. -/
def shr32 (a n : Int) : Int × Bool := if n < 0 then lShlPos a (-n).toNat else lShrPos a n.toNat

/-- `L_shr_r(a, n)`: rounds for a positive count, the sum exact; else `L_shr` (R119). Its value and event are the closed form of R121. -/
def shrR32 (a n : Int) : Int × Bool :=
  if n ≤ 0 then shr32 a n
  else (floorShift (a + pow2 (n.toNat - 1)) n.toNat, false)

/-- SHL a, n (R113). -/
def execShl (loc : FlagLoc) (a n : Word16) (s : State) : Host.Outcome State Fault Refusal :=
  runArith (.shl loc a n) (reply16 (shl16 (s16 a) (s16 n))) s

/-- SHR a, n (R114). -/
def execShr (loc : FlagLoc) (a n : Word16) (s : State) : Host.Outcome State Fault Refusal :=
  runArith (.shr loc a n) (reply16 (shr16 (s16 a) (s16 n))) s

/-- L_SHL a, n (R117). -/
def execLShl (loc : FlagLoc) (a : Word32) (n : Word16) (s : State) : Host.Outcome State Fault Refusal :=
  runArith (.lShl loc a n) (reply32 (shl32 (s32 a) (s16 n))) s

/-- L_SHR a, n (R118). -/
def execLShr (loc : FlagLoc) (a : Word32) (n : Word16) (s : State) : Host.Outcome State Fault Refusal :=
  runArith (.lShr loc a n) (reply32 (shr32 (s32 a) (s16 n))) s

/-- L_SHR_R a, n (R119). -/
def execLShrR (loc : FlagLoc) (a : Word32) (n : Word16) (s : State) : Host.Outcome State Fault Refusal :=
  runArith (.lShrR loc a n) (reply32 (shrR32 (s32 a) (s16 n))) s

end Sys2Proof.Machine
end

