-- ==== Sys2Proof/Machine/Dispatch.lean ====
section
/-! DEFINITION. The meaning of a decoded command: one arm for each row of the operation-code table (30_encoding.md R55, R60). -/
namespace Sys2Proof.Machine

/-- The effect of one accepted command on a block that is not halted (R60). -/
def exec (i : Instr) (s : State) : Host.Outcome State Fault Refusal :=
  match i with
  | .saturate loc wide => Sys2Proof.Machine.execSaturate loc wide s
  | .add loc a b => Sys2Proof.Machine.execAdd loc a b s
  | .sub loc a b => Sys2Proof.Machine.execSub loc a b s
  | .negate loc a => Sys2Proof.Machine.execNegate loc a s
  | .lAdd loc a b => Sys2Proof.Machine.execLAdd loc a b s
  | .lSub loc a b => Sys2Proof.Machine.execLSub loc a b s
  | .lNegate loc a => Sys2Proof.Machine.execLNegate loc a s
  | .mult loc a b => Sys2Proof.Machine.execMult loc a b s
  | .multR loc a b => Sys2Proof.Machine.execMultR loc a b s
  | .lMult loc a b => Sys2Proof.Machine.execLMult loc a b s
  | .lMac loc acc x y => Sys2Proof.Machine.execLMac loc acc x y s
  | .lMsu loc acc x y => Sys2Proof.Machine.execLMsu loc acc x y s
  | .lMacNs loc acc x y => Sys2Proof.Machine.execLMacNs loc acc x y s
  | .lMsuNs loc acc x y => Sys2Proof.Machine.execLMsuNs loc acc x y s
  | .macR loc acc x y => Sys2Proof.Machine.execMacR loc acc x y s
  | .msuR loc acc x y => Sys2Proof.Machine.execMsuR loc acc x y s
  | .shl loc a n => Sys2Proof.Machine.execShl loc a n s
  | .shr loc a n => Sys2Proof.Machine.execShr loc a n s
  | .lShl loc a n => Sys2Proof.Machine.execLShl loc a n s
  | .lShr loc a n => Sys2Proof.Machine.execLShr loc a n s
  | .lShrR loc a n => Sys2Proof.Machine.execLShrR loc a n s
  | .normS loc a => Sys2Proof.Machine.execNormS loc a s
  | .normL loc a => Sys2Proof.Machine.execNormL loc a s
  | .divS loc num den => Sys2Proof.Machine.execDivS loc num den s
  | .rdovf loc => Sys2Proof.Machine.execRdovf loc s
  | .wrovf loc v => Sys2Proof.Machine.execWrovf loc v s

end Sys2Proof.Machine
end

