-- ==== Sys2Proof/Machine/Accept.lean ====
section
/-! DEFINITION. What one accepted command word does (30_encoding.md R60): decode, then the command's meaning. -/
namespace Sys2Proof.Machine

/-- R60 on a block that is not halted: a word that spells no command raises ILLEGAL_OP before anything else is looked at
(R60 step 1, R165); any other runs the meaning of its command. -/
def acceptCommand (cw : CmdWord) (s : State) : Host.Outcome State Fault Refusal :=
  match decode cw with
  | .error _ => .next (s.raiseFault .illegalOp (zext32 (CmdWord.head cw)))
  | .ok i => exec i s

end Sys2Proof.Machine
end

