-- ==== Sys2Proof/Machine/Step.lean ====
section
/-! DEFINITION. One step of the machine: one accepted command (00_scope.md R5, 30_encoding.md R60), or, when none can be accepted,
the requester's next move (70_reset_and_hazards.md R189). -/
namespace Sys2Proof.Machine

/-- One step. A halted block takes no step but reset (R164, R169); a word offered while `req_ready = 1` is accepted and executed
whole (R43, R50); otherwise the requester moves or waits (R50, R189). -/
def step (s : State) : Host.Outcome State Fault Refusal :=
  if s.cfg.valid = false then .refused .badConfig
  else if s.halted && !s.resetNext then .fault (.halted s.cause)
  else
    match s.accepting with
    | some cw => acceptCommand cw (s.consume cw)
    | none => .next s.playMove

/-- `s` with a pending response taken and the command word of the given bits offered on the port, which is where `step` accepts its
next command (log entry 10). -/
def State.withFetchWord (s : State) (nbits w : Nat) : State :=
  { s.deliver with req := some (tableWord nbits w) }

end Sys2Proof.Machine
end

