-- ==== Sys2Proof/Machine/Assembler.lean ====
section
/-! DEFINITION. The assembler line of 30_encoding.md R61 and R62: how its text is read, what word it stands for and what its `name =`
binds. No step of the machine uses it. What R61 leaves open of a line's characters is log entry 12. -/
namespace Sys2Proof.Machine

/-- The type of an operand field or of a result (R55); `none` is the table's "-". -/
inductive FieldKind where
  | none
  | w16
  | w32
  | bit
  deriving DecidableEq, Repr

/-- One row of the operation-code table with its operand and result types (R55). -/
structure AsmRow where
  mnemonic : String
  docName : String
  op : BitVec 6
  a : FieldKind
  b : FieldKind
  c : FieldKind
  result : FieldKind
  deriving DecidableEq, Repr

/-- The table of R55. -/
def asmTable : List AsmRow :=
  [ AsmRow.mk "SATURATE" "saturate" 0x01 .w32 .none .none .w16,
    AsmRow.mk "ADD" "add" 0x02 .w16 .w16 .none .w16,
    AsmRow.mk "SUB" "sub" 0x03 .w16 .w16 .none .w16,
    AsmRow.mk "NEGATE" "negate" 0x04 .w16 .none .none .w16,
    AsmRow.mk "L_ADD" "L_add" 0x05 .w32 .w32 .none .w32,
    AsmRow.mk "L_SUB" "L_sub" 0x06 .w32 .w32 .none .w32,
    AsmRow.mk "L_NEGATE" "L_negate" 0x07 .w32 .none .none .w32,
    AsmRow.mk "MULT" "mult" 0x08 .w16 .w16 .none .w16,
    AsmRow.mk "MULT_R" "mult_r" 0x09 .w16 .w16 .none .w16,
    AsmRow.mk "L_MULT" "L_mult" 0x0A .w16 .w16 .none .w32,
    AsmRow.mk "L_MAC" "L_mac" 0x0B .w32 .w16 .w16 .w32,
    AsmRow.mk "L_MSU" "L_msu" 0x0C .w32 .w16 .w16 .w32,
    AsmRow.mk "L_MACNS" "L_macNs" 0x0D .w32 .w16 .w16 .w32,
    AsmRow.mk "L_MSUNS" "L_msuNs" 0x0E .w32 .w16 .w16 .w32,
    AsmRow.mk "MAC_R" "mac_r" 0x0F .w32 .w16 .w16 .w16,
    AsmRow.mk "MSU_R" "msu_r" 0x10 .w32 .w16 .w16 .w16,
    AsmRow.mk "SHL" "shl" 0x11 .w16 .w16 .none .w16,
    AsmRow.mk "SHR" "shr" 0x12 .w16 .w16 .none .w16,
    AsmRow.mk "L_SHL" "L_shl" 0x13 .w32 .w16 .none .w32,
    AsmRow.mk "L_SHR" "L_shr" 0x14 .w32 .w16 .none .w32,
    AsmRow.mk "L_SHR_R" "L_shr_r" 0x15 .w32 .w16 .none .w32,
    AsmRow.mk "NORM_S" "norm_s" 0x16 .w16 .none .none .w16,
    AsmRow.mk "NORM_L" "norm_l" 0x17 .w32 .none .none .w16,
    AsmRow.mk "DIV_S" "div_s" 0x18 .w16 .w16 .none .w16,
    AsmRow.mk "RDOVF" "RDOVF" 0x19 .none .none .none .bit,
    AsmRow.mk "WROVF" "WROVF" 0x1A .bit .none .none .bit ]

/-- An operand as it is written (R61). -/
inductive AsmOperand where
  /-- A decimal integer. -/
  | dec (x : Int)
  /-- `0x` and digits: the field's bits. -/
  | hex (bits : Nat)
  /-- A name bound earlier. -/
  | name (n : String)
  deriving DecidableEq, Repr

/-- One line (R61). `ctx` and `ovfIn` default to 0. -/
structure AsmLine where
  bind : Option String := Option.none
  mnemonic : String
  operands : List AsmOperand := []
  ctx : Nat := 0
  ovfIn : Bool := false
  deriving DecidableEq, Repr

/-- The names the requester keeps, with their values (R20, R61). -/
abbrev AsmEnv := List (String × Int)

/-- The range of a decimal operand of each type (R61). A one-bit operand is a whole field of which bit 0 is read (R53, R151). -/
def FieldKind.admits (k : FieldKind) (x : Int) : Bool :=
  match k with
  | .none => false
  | .w16 => inRange16 x
  | .w32 => inRange32 x
  | .bit => inRange32 x

/-- The integer an operand stands for, where it stands for one (R61). -/
def AsmOperand.value (env : AsmEnv) (o : AsmOperand) : Option Int :=
  match o with
  | .dec x => some x
  | .name n => env.lookup n
  | .hex _ => Option.none

/-- The bits of a field of width `w` (R61): the given bits of a hexadecimal operand, the sign extension of any other. -/
def AsmOperand.field (env : AsmEnv) (k : FieldKind) (w : Nat) (o : AsmOperand) : Option (BitVec w) :=
  match o with
  | .hex n => if n < 2 ^ w then some (BitVec.ofNat w n) else Option.none
  | o =>
    match o.value env with
    | some x => if k.admits x then some (BitVec.ofInt w x) else Option.none
    | Option.none => Option.none

/-- The next operand goes into the next field that the row uses; an unused field is 0 (R61). -/
def takeField (env : AsmEnv) (k : FieldKind) (w : Nat) (os : List AsmOperand) :
    Option (BitVec w × List AsmOperand) :=
  match k, os with
  | .none, os => some (0, os)
  | _, [] => Option.none
  | k, o :: os =>
    match o.field env k w with
    | some v => some (v, os)
    | Option.none => Option.none

/-- The word of a line whose row is known (R61). -/
def assembleRow (env : AsmEnv) (r : AsmRow) (l : AsmLine) : Option CmdWord := do
  let (a, os) ← takeField env r.a 32 l.operands
  let (b, os) ← takeField env r.b 32 os
  let (c, os) ← takeField env r.c 16 os
  if os.isEmpty && decide (l.ctx < 256) then
    some (packCmd (packHead r.op l.ovfIn false (BitVec.ofNat 8 l.ctx)) a b c)
  else Option.none

/-- A pseudo-command is its expansion (R62). -/
def expandPseudo (l : AsmLine) : AsmLine :=
  if l.mnemonic = "CLROVF" ∧ l.operands = [] then { l with mnemonic := "WROVF", operands := [.dec 0] }
  else if l.mnemonic = "SETOVF" ∧ l.operands = [] then { l with mnemonic := "WROVF", operands := [.dec 1] }
  else l

/-- The row a line names, by the mnemonic or by the document's spelling (R61). -/
def AsmLine.row (l : AsmLine) : Option AsmRow :=
  asmTable.find? fun r => r.mnemonic == l.mnemonic || r.docName == l.mnemonic

/-- The command word of a line (R61, R62). -/
def assemble (env : AsmEnv) (l : AsmLine) : Option CmdWord :=
  match (expandPseudo l).row with
  | some r => assembleRow env r (expandPseudo l)
  | Option.none => Option.none

/-! The text of a line (R61). A token is a comma, an equals sign, or a run of characters without blanks, commas and equals signs. -/

/-- The token that the characters read so far make, if there are any. -/
def flushToken (cur : List Char) : List (List Char) := if cur.isEmpty then [] else [cur]

/-- The tokens of a line; a comment runs from `;` to its end (R61). -/
def lexLine : List Char → List Char → List (List Char)
  | [], cur => flushToken cur
  | c :: cs, cur =>
    if c = ';' then flushToken cur
    else if c = ' ' || c = '\t' then flushToken cur ++ lexLine cs []
    else if c = ',' || c = '=' then flushToken cur ++ [c] :: lexLine cs []
    else lexLine cs (cur ++ [c])

/-- The value of a digit in base 10 or 16. -/
def digitValue (base : Nat) (c : Char) : Option Nat :=
  let v := if '0' ≤ c ∧ c ≤ '9' then c.toNat - 48
    else if 'a' ≤ c ∧ c ≤ 'f' then c.toNat - 87
    else if 'A' ≤ c ∧ c ≤ 'F' then c.toNat - 55
    else base
  if v < base then some v else Option.none

/-- The number that digits stand for, read on from `acc`. -/
def digitsValue (base : Nat) : List Char → Nat → Option Nat
  | [], acc => some acc
  | c :: cs, acc =>
    match digitValue base c with
    | some d => digitsValue base cs (acc * base + d)
    | Option.none => Option.none

/-- A number of one digit or more. -/
def parseNat (base : Nat) (t : List Char) : Option Nat :=
  if t.isEmpty then Option.none else digitsValue base t 0

/-- A token that can be a name: it begins with a letter or an underscore (log entry 12). -/
def isName (t : List Char) : Bool :=
  match t with
  | [] => false
  | c :: _ => c.isAlpha || c == '_'

/-- One operand: `0x` and digits, a decimal integer, or a name (R61). -/
def parseOperand (t : List Char) : Option AsmOperand :=
  match t with
  | '0' :: 'x' :: ds => (parseNat 16 ds).map .hex
  | '-' :: ds => (parseNat 10 ds).map fun n => .dec (-(n : Int))
  | t => if isName t then some (.name (String.ofList t)) else (parseNat 10 t).map fun n => .dec n

/-- The operands after the first, each behind a comma, and the tokens that follow them. -/
def parseMoreOperands : List (List Char) → List AsmOperand → Option (List AsmOperand × List (List Char))
  | t :: o :: ts, acc =>
    if t = [','] then
      match parseOperand o with
      | some x => parseMoreOperands ts (acc ++ [x])
      | Option.none => Option.none
    else some (acc, t :: o :: ts)
  | ts, acc => some (acc, ts)

/-- The operands of a line: none where the line ends or an option `ctx=`, `ovf_in=` follows. -/
def parseOperands (ts : List (List Char)) : Option (List AsmOperand × List (List Char)) :=
  match ts with
  | [] => some ([], [])
  | _ :: ['='] :: _ => some ([], ts)
  | t :: ts => (parseOperand t).bind fun x => parseMoreOperands ts [x]

/-- `[ovf_in=<0|1>]`, then the end of the line. -/
def parseOvfIn (l : AsmLine) (ts : List (List Char)) : Option AsmLine :=
  match ts with
  | [] => some l
  | [k, ['='], ['0']] => if k = "ovf_in".toList then some { l with ovfIn := false } else Option.none
  | [k, ['='], ['1']] => if k = "ovf_in".toList then some { l with ovfIn := true } else Option.none
  | _ => Option.none

/-- `[ctx=<0..255>]`, then the rest. -/
def parseOptions (l : AsmLine) (ts : List (List Char)) : Option AsmLine :=
  match ts with
  | k :: ['='] :: v :: rest =>
    if k = "ctx".toList then
      (parseNat 10 v).bind fun n => if n ≤ 255 then parseOvfIn { l with ctx := n } rest else Option.none
    else parseOvfIn l ts
  | ts => parseOvfIn l ts

/-- `MNEMONIC` and what follows it. -/
def parseCommand (bind : Option String) (ts : List (List Char)) : Option AsmLine :=
  match ts with
  | [] => Option.none
  | m :: ts =>
    (parseOperands ts).bind fun p =>
      parseOptions { bind := bind, mnemonic := String.ofList m, operands := p.1 } p.2

/-- A line of text: `[name =] MNEMONIC [operand (, operand)*] [ctx=..] [ovf_in=..]` (R61). -/
def parseLine (text : String) : Option AsmLine :=
  match lexLine text.toList [] with
  | n :: ['='] :: ts => if isName n then parseCommand (some (String.ofList n)) ts else Option.none
  | ts => parseCommand Option.none ts

/-- The command word of a line of text (R61, R62). -/
def assembleText (env : AsmEnv) (text : String) : Option CmdWord := (parseLine text).bind (assemble env)

/-- A `result` field read at a result's type (R54, R61). -/
def FieldKind.read (k : FieldKind) (r : Word32) : Int :=
  match k with
  | .none => 0
  | .w16 => s16 (r.setWidth 16)
  | .w32 => s32 r
  | .bit => if r.getLsbD 0 then 1 else 0

/-- `name =` binds the `result` of the response, read at the result's type, to a name the requester keeps (R61). -/
def bindResult (env : AsmEnv) (l : AsmLine) (rw : RspWord) : AsmEnv :=
  match l.bind, (expandPseudo l).row with
  | some n, some r => (n, r.result.read (rspResult rw)) :: env
  | _, _ => env

end Sys2Proof.Machine
end

