-- ==== Sys2Proof/Safety.lean ====
section
/-! DEFINITION. What counts as a run that has ended well, and the invariant of the machine's states. -/
namespace Sys2Proof.Machine

/-- A run has ended well: every command the requester set out to send in it has been accepted, every accepted command has had its
response delivered, and `HALTED = 0` (70_reset_and_hazards.md R188). -/
def RunRecord.endedWell (r : RunRecord) : Bool :=
  r.unsent.isEmpty && r.accepted.length == r.delivered.length && !r.halted

/-- A run is faulted: it has not ended well and never will (60_exceptions.md R164, R188). -/
def RunRecord.faulted (r : RunRecord) : Bool := r.halted

/-- The current run has ended well: as above, in a run that is there, `rst_n` being 1 (R188; log entry 16). -/
def State.endedWell (s : State) : Bool := s.rstN && s.runRecord.endedWell

/-- The current run is faulted (R188). -/
def State.faulted (s : State) : Bool := s.runRecord.faulted

/-- Every run so far has ended well, the current one among them: no command was lost to a fault or a reset (R181, R188). -/
def State.allEndedWell (s : State) : Bool := s.past.all RunRecord.endedWell && s.endedWell

/-- The number of OVF registers the block has (10_state.md R22). -/
def bankSize (c : Config) : Nat :=
  match c.flagMode with
  | .shared => c.nctx
  | .explicit => 0

/-- `ovf_flag = 0` with `ovf_event = 1` cannot occur (30_encoding.md R52). -/
def rspOk (r : RspWord) : Bool := !rspEvent r || rspFlag r

/-- What the fault latch can hold under given parameters: nothing before a fault, DIV_DOMAIN only under ABORT, BAD_CTX only in
SHARED mode, and for ILLEGAL_OP and BAD_CTX a 16-bit INFO (60_exceptions.md R160 to R162). -/
def latchOk (c : Config) (halted : Bool) (cause : Cause) (info : BitVec 32) : Bool :=
  match cause with
  | .none => !halted && info == 0
  | .divDomain => halted && c.errPolicy == .abort
  | .illegalOp => halted && decide (info.toNat < 2 ^ 16)
  | .badCtx => halted && c.flagMode == .shared && decide (info.toNat < 2 ^ 16)

/-- While `rst_n = 0` the block holds its reset values (70_reset_and_hazards.md R180). -/
def heldInReset (s : State) : Bool :=
  s.ovf == resetBank s.cfg && !s.halted && s.rsp.isNone && s.accepted.isEmpty && s.delivered.isEmpty

/-- What a run that is over can have been: at most one command without a response, namely the one in the block or the one that faulted
(30_encoding.md R50, R60; 70_reset_and_hazards.md R188), the latch consistent and every response one R52 allows. -/
def RunRecord.ok (c : Config) (r : RunRecord) : Bool :=
  decide (r.delivered.length + r.halted.toNat ≤ r.accepted.length) &&
    decide (r.accepted.length ≤ r.delivered.length + 1) &&
    latchOk c r.halted r.cause r.info && r.delivered.all rspOk && r.ovf.length == bankSize c

/-- The invariant of every state a block of valid parameters can be in: the bank has its size (R22), the latch is consistent (R160),
a halted block offers no response (R164), every response word is one R52 allows, the accepted commands are those answered and the
one in the block or faulted (R50, R188), reset holds its values (R180), and the runs on record are runs of this block. -/
structure State.Inv (s : State) : Prop where
  cfgValid : s.cfg.valid = true
  bank : s.ovf.length = bankSize s.cfg
  latch : latchOk s.cfg s.halted s.cause s.info = true
  haltedSilent : s.halted = true → s.rsp = none
  rspAllowed : ∀ r, s.rsp = some r → rspOk r = true
  deliveredAllowed : ∀ r ∈ s.delivered, rspOk r = true
  oneInBlock : s.accepted.length = s.delivered.length + (s.rsp.isSome || s.halted).toNat
  inReset : s.rstN = false → heldInReset s = true
  pastAllowed : ∀ r ∈ s.past, r.ok s.cfg = true

end Sys2Proof.Machine
end

