-- ==== Sys2Proof/Certificates/Slice0/Obligations.lean ====
section
/-! DEFINITION. The statements about the model, from the numbered rules of spec/. The first part writes the rules' own closed forms
and frames on plain words and integers, apart from the model's functions; `Int` division by a power of two is the floor. -/
namespace Sys2Proof.Spec
open Sys2Proof.Machine

/-- `CW.op` as a number (30_encoding.md R51). -/
abbrev opBits (w : CmdWord) : Nat := (w.extractLsb' 90 6).toNat

/-- `CW.ovf_in` and `CW.ctx` (R51). -/
abbrev locBits (w : CmdWord) : FlagLoc := { ovfIn := w.getLsbD 89, ctx := w.extractLsb' 80 8 }

/-- `zext_32(CW[95:80])` (60_exceptions.md R161). -/
abbrev headInfo (w : CmdWord) : BitVec 32 := (w.extractLsb' 80 16).setWidth 32

/-- Every word with `rsv0 = 0` and operation code `k` is the command `mk` makes of its fields (R53, R55). -/
def Reads (k : Nat) (mk : CmdWord → Instr) : Prop :=
  ∀ w : CmdWord, w.getLsbD 88 = false → opBits w = k → decode w = .ok (mk w)

/-- The block is not halted and the command's context exists: nothing to ask in EXPLICIT mode, `ctx < NCTX` in SHARED mode
(30_encoding.md R60 steps 0 and 2, 60_exceptions.md R166). -/
abbrev Accepts (s : State) (loc : FlagLoc) : Prop :=
  s.halted = false ∧ (s.cfg.flagMode = .shared → loc.ctx.toNat < s.cfg.nctx)

/-- `f_new` (10_state.md R23, R24). -/
def newFlag (s : State) (loc : FlagLoc) (e : Bool) : Bool :=
  match s.cfg.flagMode with
  | .shared => s.ovf.getD loc.ctx.toNat false || e
  | .explicit => loc.ovfIn || e

/-- The response word `{flag, event, result}` (R52). -/
def response (flag event : Bool) (result : BitVec 32) : RspWord :=
  BitVec.ofBool flag ++ BitVec.ofBool event ++ result

/-- The whole state after an arithmetic command answered with the integer `r` and the event `e`: the flag location took `e` (R23,
R24), the response word is offered (R52, R54), and nothing else changed. -/
def answered (s : State) (loc : FlagLoc) (r : Int) (e : Bool) : State :=
  { s with
    ovf := match s.cfg.flagMode with
      | .shared => s.ovf.set loc.ctx.toNat (newFlag s loc e)
      | .explicit => s.ovf
    rsp := some (response (newFlag s loc e) e (BitVec.ofInt 32 r)) }

/-- The whole state after `raise Fault(c, info)` (60_exceptions.md R163). -/
def latched (s : State) (c : Cause) (info : BitVec 32) : State :=
  { s with halted := true, cause := c, info := info }

/-- The whole state after the word at the port was accepted: the port is free and the run has one accepted command more (R50,
70_reset_and_hazards.md R188). -/
def taken (s : State) (w : CmdWord) : State := { s with req := none, accepted := s.accepted ++ [w] }

/-- What a reset puts on record of the run it ends (R188): what was accepted, what was delivered, what was still to be sent (the word on
the port), the flags and the latch. -/
def recordOf (s : State) : RunRecord :=
  { accepted := s.accepted, delivered := s.delivered, unsent := s.req.toList
    ovf := s.ovf, halted := s.halted, cause := s.cause, info := s.info }

/-- The requester sends these commands in turn and takes each response (70_reset_and_hazards.md R189). -/
def sendAll (ws : List CmdWord) : List Move := ws.flatMap fun w => [.offer w, .take]

/-- A command word is about to be accepted: `req_valid = req_ready = 1` on a block of valid parameters (R50). -/
abbrev Ready (s : State) (w : CmdWord) : Prop :=
  s.cfg.valid = true ∧ s.rstN = true ∧ s.halted = false ∧ s.rsp = none ∧ s.req = some w

/-- `illegal(CW)` (60_exceptions.md R165). -/
abbrev Illegal (c : Config) (w : CmdWord) : Prop :=
  w.getLsbD 88 = true ∨ opBits w = 0 ∨ 0x1B ≤ opBits w ∨
    (c.flagMode = .explicit ∧ (opBits w = 0x19 ∨ opBits w = 0x1A))

/-- `DomainError(num, den)` (45_division.md R141). -/
abbrev DomainErr (num den : BitVec 16) : Prop :=
  den.toInt = 0 ∨ num.toInt < 0 ∨ den.toInt < 0 ∨ den.toInt < num.toInt

/-- An accepted word raises a fault (60_exceptions.md R160, 30_encoding.md R60). -/
abbrev Faults (c : Config) (w : CmdWord) : Prop :=
  Illegal c w ∨ (c.flagMode = .shared ∧ c.nctx ≤ (w.extractLsb' 80 8).toNat) ∨
    (opBits w = 0x18 ∧ c.errPolicy = .abort ∧ DomainErr (w.extractLsb' 48 16) (w.extractLsb' 16 16))

/-- Outside the Word16 range (00_scope.md R10). -/
def out16 (x : Int) : Bool := decide (x < -32768 ∨ 32767 < x)
/-- Outside the Word32 range (R10). -/
def out32 (x : Int) : Bool := decide (x < -2147483648 ∨ 2147483647 < x)
/-- The nearest Word16 value (R10). -/
def sat16 (x : Int) : Int := max (-32768) (min x 32767)
/-- The nearest Word32 value (R10). -/
def sat32 (x : Int) : Int := max (-2147483648) (min x 2147483647)

/-- The only product that L_mult clamps (42_multiplicative.md R92). -/
def topPair (x y : BitVec 16) : Bool := decide (x.toInt = -32768 ∧ y.toInt = -32768)
/-- The value of L_mult (R92). -/
def doubled (x y : BitVec 16) : Int := if topPair x y then 2147483647 else 2 * (x.toInt * y.toInt)

/-- `floor((t + 2^(n-1)) / 2^n)`, the sum exact (R99, 43_shift.md R119). -/
def rounded (n : Nat) (t : Int) : Int := (t + 2 ^ (n - 1)) / 2 ^ n

/-- The count of redundant sign bits of `a` in a word of `top + 2` bits, 0 for the operand 0 (44_normalization.md R132). -/
def redundant (top : Nat) (a : Int) : Int :=
  if a = 0 then 0
  else if a = -1 then top + 1
  else top - (Nat.log2 (if a < 0 then -a - 1 else a).toNat : Int)

/-- The absolute value of a Word16, -32768 going to 32767 (45_division.md R145). -/
def absWord (x : Int) : Int := min (max x (-x)) 32767

/-- The bits of a word that the operation code `k` reads (R53, R55, R58), `ovf_in`, `rsv0` and `ctx` among them. -/
def usedMask (k : Nat) : CmdWord :=
  if k ∈ [0x05, 0x06] then 0xFFFFFFFFFFFFFFFFFFFF0000#96
  else if k ∈ [0x02, 0x03, 0x08, 0x09, 0x0A, 0x11, 0x12, 0x18] then 0xFFFF0000FFFF0000FFFF0000#96
  else if k ∈ [0x0B, 0x0C, 0x0D, 0x0E, 0x0F, 0x10] then 0xFFFFFFFFFFFF0000FFFFFFFF#96
  else if k ∈ [0x13, 0x14, 0x15] then 0xFFFFFFFFFFFF0000FFFF0000#96
  else if k ∈ [0x01, 0x07, 0x17] then 0xFFFFFFFFFFFF000000000000#96
  else if k ∈ [0x04, 0x16] then 0xFFFF0000FFFF000000000000#96
  else if k = 0x1A then 0xFFFF00000001000000000000#96
  else 0xFFFF00000000000000000000#96

/-- All bits but the one of `ovf_in` and `ctx` that the flag mode ignores (R51, R58). -/
def modeMask (c : Config) : CmdWord :=
  match c.flagMode with
  | .shared => 0xFDFFFFFFFFFFFFFFFFFFFFFF#96
  | .explicit => 0xFF00FFFFFFFFFFFFFFFFFFFF#96

/-- What a step answers, with the next state mapped. -/
def mapNext (f : State → State) : Host.Outcome State Fault Refusal → Host.Outcome State Fault Refusal
  | .next t => .next (f t)
  | .fault r => .fault r
  | .refused r => .refused r

/-- A state of the same block with another LATENCY. -/
def withLatency (n : Nat) (s : State) : State := { s with cfg := { s.cfg with latency := n } }

end Sys2Proof.Spec

open Sys2Proof Sys2Proof.Machine Sys2Proof.Spec

/-! Encoding -/

/-- Decoding an encoded command gives it back, with every operand at every value. -/
def Obligations.DecodeEncode : Prop := ∀ i : Instr, decode (encode i) = .ok i

/-- Command words printed in the rules are the commands they are examples of, one for each family. -/
def Obligations.PrintedWordsDecode : Prop :=
  decode 0x080000007FFF000000010000#96 = .ok (.add ⟨false, 0⟩ 32767 1) ∧
  decode 0x040000012345000000000000#96 = .ok (.saturate ⟨false, 0⟩ 0x12345) ∧
  decode 0x2C00000003E8000040004000#96 = .ok (.lMac ⟨false, 0⟩ 1000 16384 16384) ∧
  decode 0x4C0040000000000000010000#96 = .ok (.lShl ⟨false, 0⟩ 0x40000000 1) ∧
  decode 0x5C00075BCD15000000000000#96 = .ok (.normL ⟨false, 0⟩ 123456789) ∧
  decode 0x600000000001000000020000#96 = .ok (.divS ⟨false, 0⟩ 1 2) ∧
  decode 0x640300000000000000000000#96 = .ok (.rdovf ⟨false, 3⟩)

/-- The decoder refuses exactly the words with the reserved bit set or a reserved operation code. -/
def Obligations.DecodeRefusesExactlyReserved : Prop :=
  ∀ w : CmdWord, (∃ r, decode w = .error r) ↔ (w.getLsbD 88 = true ∨ opBits w = 0 ∨ 0x1B ≤ opBits w)


/-- The pseudo-commands are WROVF 0 and WROVF 1 on their context. -/
def Obligations.PseudoCommandsAssemble : Prop :=
  ∀ (env : AsmEnv) (k : BitVec 8),
    assemble env { mnemonic := "CLROVF", ctx := k.toNat } = some (encode (.wrovf ⟨false, k⟩ false)) ∧
    assemble env { mnemonic := "SETOVF", ctx := k.toNat } = some (encode (.wrovf ⟨false, k⟩ true))

/-! The arithmetic commands: how their words are read, and the whole next state -/

/-- SATURATE clamps its Word32 to a Word16 and signals exactly when it is outside the range. -/
def Obligations.SaturateResult : Prop :=
  Reads 0x01 (fun w => .saturate (locBits w) (w.extractLsb' 48 32)) ∧
  ∀ (loc : FlagLoc) (wide : BitVec 32) (s : State), Accepts s loc →
    exec (.saturate loc wide) s = .next (answered s loc (sat16 wide.toInt) (out16 wide.toInt))

/-- ADD is the clamped sum. -/
def Obligations.AddResult : Prop :=
  Reads 0x02 (fun w => .add (locBits w) (w.extractLsb' 48 16) (w.extractLsb' 16 16)) ∧
  ∀ (loc : FlagLoc) (a b : BitVec 16) (s : State), Accepts s loc →
    exec (.add loc a b) s = .next (answered s loc (sat16 (a.toInt + b.toInt)) (out16 (a.toInt + b.toInt)))

/-- SUB is the clamped difference. -/
def Obligations.SubResult : Prop :=
  Reads 0x03 (fun w => .sub (locBits w) (w.extractLsb' 48 16) (w.extractLsb' 16 16)) ∧
  ∀ (loc : FlagLoc) (a b : BitVec 16) (s : State), Accepts s loc →
    exec (.sub loc a b) s = .next (answered s loc (sat16 (a.toInt - b.toInt)) (out16 (a.toInt - b.toInt)))

/-- NEGATE negates, -32768 going to 32767 with the event. -/
def Obligations.NegateResult : Prop :=
  Reads 0x04 (fun w => .negate (locBits w) (w.extractLsb' 48 16)) ∧
  ∀ (loc : FlagLoc) (a : BitVec 16) (s : State), Accepts s loc →
    exec (.negate loc a) s = .next (answered s loc (sat16 (-a.toInt)) (decide (a.toInt = -32768)))

/-- L_ADD is the sum clamped at 32 bits: its sign test signals exactly the sums out of range. -/
def Obligations.LAddResult : Prop :=
  Reads 0x05 (fun w => .lAdd (locBits w) (w.extractLsb' 48 32) (w.extractLsb' 16 32)) ∧
  ∀ (loc : FlagLoc) (a b : BitVec 32) (s : State), Accepts s loc →
    exec (.lAdd loc a b) s = .next (answered s loc (sat32 (a.toInt + b.toInt)) (out32 (a.toInt + b.toInt)))

/-- L_SUB is the difference clamped at 32 bits. -/
def Obligations.LSubResult : Prop :=
  Reads 0x06 (fun w => .lSub (locBits w) (w.extractLsb' 48 32) (w.extractLsb' 16 32)) ∧
  ∀ (loc : FlagLoc) (a b : BitVec 32) (s : State), Accepts s loc →
    exec (.lSub loc a b) s = .next (answered s loc (sat32 (a.toInt - b.toInt)) (out32 (a.toInt - b.toInt)))

/-- L_NEGATE negates, the least Word32 going to the greatest with the event. -/
def Obligations.LNegateResult : Prop :=
  Reads 0x07 (fun w => .lNegate (locBits w) (w.extractLsb' 48 32)) ∧
  ∀ (loc : FlagLoc) (a : BitVec 32) (s : State), Accepts s loc →
    exec (.lNegate loc a) s = .next (answered s loc (sat32 (-a.toInt)) (decide (a.toInt = -2147483648)))

/-- MULT floors the exact product at 15 places and clamps only -32768 times -32768. -/
def Obligations.MultResult : Prop :=
  Reads 0x08 (fun w => .mult (locBits w) (w.extractLsb' 48 16) (w.extractLsb' 16 16)) ∧
  ∀ (loc : FlagLoc) (a b : BitVec 16) (s : State), Accepts s loc →
    exec (.mult loc a b) s = .next (answered s loc (sat16 (a.toInt * b.toInt / 32768)) (topPair a b))

/-- MULT_R's bit steps round the product to nearest, ties upward, and clamp only -32768 times -32768. -/
def Obligations.MultRResult : Prop :=
  Reads 0x09 (fun w => .multR (locBits w) (w.extractLsb' 48 16) (w.extractLsb' 16 16)) ∧
  ∀ (loc : FlagLoc) (a b : BitVec 16) (s : State), Accepts s loc →
    exec (.multR loc a b) s =
      .next (answered s loc (sat16 ((a.toInt * b.toInt + 16384) / 32768)) (topPair a b))

/-- L_MULT doubles the exact product and clamps only -32768 times -32768. -/
def Obligations.LMultResult : Prop :=
  Reads 0x0A (fun w => .lMult (locBits w) (w.extractLsb' 48 16) (w.extractLsb' 16 16)) ∧
  ∀ (loc : FlagLoc) (a b : BitVec 16) (s : State), Accepts s loc →
    exec (.lMult loc a b) s = .next (answered s loc (doubled a b) (topPair a b))

/-- L_MAC adds the doubled product to the accumulator with a clamp; either stage's event signals. -/
def Obligations.LMacResult : Prop :=
  Reads 0x0B (fun w => .lMac (locBits w) (w.extractLsb' 48 32) (w.extractLsb' 16 16) (w.extractLsb' 0 16)) ∧
  ∀ (loc : FlagLoc) (acc : BitVec 32) (x y : BitVec 16) (s : State), Accepts s loc →
    exec (.lMac loc acc x y) s =
      .next (answered s loc (sat32 (acc.toInt + doubled x y)) (topPair x y || out32 (acc.toInt + doubled x y)))

/-- L_MSU subtracts the doubled product from the accumulator with a clamp; either stage's event signals. -/
def Obligations.LMsuResult : Prop :=
  Reads 0x0C (fun w => .lMsu (locBits w) (w.extractLsb' 48 32) (w.extractLsb' 16 16) (w.extractLsb' 0 16)) ∧
  ∀ (loc : FlagLoc) (acc : BitVec 32) (x y : BitVec 16) (s : State), Accepts s loc →
    exec (.lMsu loc acc x y) s =
      .next (answered s loc (sat32 (acc.toInt - doubled x y)) (topPair x y || out32 (acc.toInt - doubled x y)))

/-- L_MACNS wraps in its add, which never signals; its multiply clamps and signals as ever. -/
def Obligations.LMacNsResult : Prop :=
  Reads 0x0D (fun w => .lMacNs (locBits w) (w.extractLsb' 48 32) (w.extractLsb' 16 16) (w.extractLsb' 0 16)) ∧
  ∀ (loc : FlagLoc) (acc : BitVec 32) (x y : BitVec 16) (s : State), Accepts s loc →
    exec (.lMacNs loc acc x y) s =
      .next (answered s loc ((acc.toInt + doubled x y).bmod 4294967296) (topPair x y))

/-- L_MSUNS wraps in its subtract, which never signals. -/
def Obligations.LMsuNsResult : Prop :=
  Reads 0x0E (fun w => .lMsuNs (locBits w) (w.extractLsb' 48 32) (w.extractLsb' 16 16) (w.extractLsb' 0 16)) ∧
  ∀ (loc : FlagLoc) (acc : BitVec 32) (x y : BitVec 16) (s : State), Accepts s loc →
    exec (.lMsuNs loc acc x y) s =
      .next (answered s loc ((acc.toInt - doubled x y).bmod 4294967296) (topPair x y))

/-- MAC_R rounds L_MAC's value at RND_SH places, the sum exact, and clamps to a Word16; any of the three stages signals. -/
def Obligations.MacRResult : Prop :=
  Reads 0x0F (fun w => .macR (locBits w) (w.extractLsb' 48 32) (w.extractLsb' 16 16) (w.extractLsb' 0 16)) ∧
  ∀ (loc : FlagLoc) (acc : BitVec 32) (x y : BitVec 16) (s : State), Accepts s loc →
    exec (.macR loc acc x y) s =
      .next (answered s loc (sat16 (rounded s.cfg.rndSh (sat32 (acc.toInt + doubled x y))))
        (topPair x y || out32 (acc.toInt + doubled x y) ||
          out16 (rounded s.cfg.rndSh (sat32 (acc.toInt + doubled x y)))))

/-- MSU_R rounds L_MSU's value at RND_SH places, the sum exact, and clamps to a Word16; any of the three stages signals. -/
def Obligations.MsuRResult : Prop :=
  Reads 0x10 (fun w => .msuR (locBits w) (w.extractLsb' 48 32) (w.extractLsb' 16 16) (w.extractLsb' 0 16)) ∧
  ∀ (loc : FlagLoc) (acc : BitVec 32) (x y : BitVec 16) (s : State), Accepts s loc →
    exec (.msuR loc acc x y) s =
      .next (answered s loc (sat16 (rounded s.cfg.rndSh (sat32 (acc.toInt - doubled x y))))
        (topPair x y || out32 (acc.toInt - doubled x y) ||
          out16 (rounded s.cfg.rndSh (sat32 (acc.toInt - doubled x y)))))

/-- SHL: clamped left shift for a count of 0 or more, floor for a negative one, which never signals. -/
def Obligations.ShlResult : Prop :=
  Reads 0x11 (fun w => .shl (locBits w) (w.extractLsb' 48 16) (w.extractLsb' 16 16)) ∧
  ∀ (loc : FlagLoc) (a n : BitVec 16) (s : State), Accepts s loc →
    exec (.shl loc a n) s =
      .next (answered s loc
        (if n.toInt < 0 then a.toInt / 2 ^ (-n.toInt).toNat else sat16 (a.toInt * 2 ^ n.toInt.toNat))
        (decide (0 ≤ n.toInt) && out16 (a.toInt * 2 ^ n.toInt.toNat)))

/-- SHR: floor for a count of 0 or more, which never signals, clamped left shift for a negative one. -/
def Obligations.ShrResult : Prop :=
  Reads 0x12 (fun w => .shr (locBits w) (w.extractLsb' 48 16) (w.extractLsb' 16 16)) ∧
  ∀ (loc : FlagLoc) (a n : BitVec 16) (s : State), Accepts s loc →
    exec (.shr loc a n) s =
      .next (answered s loc
        (if n.toInt < 0 then sat16 (a.toInt * 2 ^ (-n.toInt).toNat) else a.toInt / 2 ^ n.toInt.toNat)
        (decide (n.toInt < 0) && out16 (a.toInt * 2 ^ (-n.toInt).toNat)))

/-- L_SHL: as SHL at 32 bits. -/
def Obligations.LShlResult : Prop :=
  Reads 0x13 (fun w => .lShl (locBits w) (w.extractLsb' 48 32) (w.extractLsb' 16 16)) ∧
  ∀ (loc : FlagLoc) (a : BitVec 32) (n : BitVec 16) (s : State), Accepts s loc →
    exec (.lShl loc a n) s =
      .next (answered s loc
        (if n.toInt < 0 then a.toInt / 2 ^ (-n.toInt).toNat else sat32 (a.toInt * 2 ^ n.toInt.toNat))
        (decide (0 ≤ n.toInt) && out32 (a.toInt * 2 ^ n.toInt.toNat)))

/-- L_SHR: as SHR at 32 bits. -/
def Obligations.LShrResult : Prop :=
  Reads 0x14 (fun w => .lShr (locBits w) (w.extractLsb' 48 32) (w.extractLsb' 16 16)) ∧
  ∀ (loc : FlagLoc) (a : BitVec 32) (n : BitVec 16) (s : State), Accepts s loc →
    exec (.lShr loc a n) s =
      .next (answered s loc
        (if n.toInt < 0 then sat32 (a.toInt * 2 ^ (-n.toInt).toNat) else a.toInt / 2 ^ n.toInt.toNat)
        (decide (n.toInt < 0) && out32 (a.toInt * 2 ^ (-n.toInt).toNat)))

/-- L_SHR_R rounds, with an exact sum and no event, for a positive count; for any other it is a clamped left shift. -/
def Obligations.LShrRResult : Prop :=
  Reads 0x15 (fun w => .lShrR (locBits w) (w.extractLsb' 48 32) (w.extractLsb' 16 16)) ∧
  ∀ (loc : FlagLoc) (a : BitVec 32) (n : BitVec 16) (s : State), Accepts s loc →
    exec (.lShrR loc a n) s =
      .next (answered s loc
        (if 0 < n.toInt then rounded n.toInt.toNat a.toInt else sat32 (a.toInt * 2 ^ (-n.toInt).toNat))
        (decide (n.toInt < 0) && out32 (a.toInt * 2 ^ (-n.toInt).toNat)))

/-- NORM_S counts the redundant sign bits of a Word16, 0 for 0, and never signals. -/
def Obligations.NormSResult : Prop :=
  Reads 0x16 (fun w => .normS (locBits w) (w.extractLsb' 48 16)) ∧
  ∀ (loc : FlagLoc) (a : BitVec 16) (s : State), Accepts s loc →
    exec (.normS loc a) s = .next (answered s loc (redundant 14 a.toInt) false)

/-- NORM_L counts the redundant sign bits of a Word32, 0 for 0, and never signals. -/
def Obligations.NormLResult : Prop :=
  Reads 0x17 (fun w => .normL (locBits w) (w.extractLsb' 48 32)) ∧
  ∀ (loc : FlagLoc) (a : BitVec 32) (s : State), Accepts s loc →
    exec (.normL loc a) s = .next (answered s loc (redundant 30 a.toInt) false)

/-- In the valid domain DIV_S is the floor of the Q15 quotient, 32767 at `num = den`, under every policy and without an event. -/
def Obligations.DivSResult : Prop :=
  Reads 0x18 (fun w => .divS (locBits w) (w.extractLsb' 48 16) (w.extractLsb' 16 16)) ∧
  ∀ (loc : FlagLoc) (num den : BitVec 16) (s : State), Accepts s loc →
    0 ≤ num.toInt → 1 ≤ den.toInt → num.toInt ≤ den.toInt →
    exec (.divS loc num den) s = .next (answered s loc (min (num.toInt * 32768 / den.toInt) 32767) false)

/-- Under ABORT a domain error halts the block with the operands in INFO, and nothing else changes. -/
def Obligations.DivSAbort : Prop :=
  ∀ (loc : FlagLoc) (num den : BitVec 16) (s : State), Accepts s loc →
    s.cfg.errPolicy = .abort → DomainErr num den →
    exec (.divS loc num den) s = .next (latched s .divDomain (den ++ num))

/-- Under CONTINUE_MAX every domain error answers 32767 without an event. -/
def Obligations.DivSContinueMax : Prop :=
  ∀ (loc : FlagLoc) (num den : BitVec 16) (s : State), Accepts s loc →
    s.cfg.errPolicy = .continueMax → DomainErr num den →
    exec (.divS loc num den) s = .next (answered s loc 32767 false)

/-- Under CONTINUE_ABS a domain error divides the clamped absolute values, a zero denominator giving 32767; operands in the domain
are divided as they are. -/
def Obligations.DivSContinueAbs : Prop :=
  ∀ (loc : FlagLoc) (num den : BitVec 16) (s : State), Accepts s loc →
    s.cfg.errPolicy = .continueAbs →
    (DomainErr num den →
      exec (.divS loc num den) s =
        .next (answered s loc
          (if den.toInt = 0 then 32767
            else min (absWord num.toInt * 32768 / absWord den.toInt) 32767) false)) ∧
    (¬ DomainErr num den →
      exec (.divS loc num den) s =
        .next (answered s loc (min (num.toInt * 32768 / den.toInt) 32767) false))

/-! The flag -/

/-- RDOVF answers the context's flag and changes nothing; a context that does not exist raises BAD_CTX, EXPLICIT mode ILLEGAL_OP. -/
def Obligations.RdovfResult : Prop :=
  Reads 0x19 (fun w => .rdovf (locBits w)) ∧
  ∀ (loc : FlagLoc) (s : State), s.halted = false →
    (s.cfg.flagMode = .shared → loc.ctx.toNat < s.cfg.nctx →
      exec (.rdovf loc) s =
        .next { s with
          rsp := some (response (s.ovf.getD loc.ctx.toNat false) false
            ((BitVec.ofBool (s.ovf.getD loc.ctx.toNat false)).setWidth 32)) }) ∧
    (s.cfg.flagMode = .shared → s.cfg.nctx ≤ loc.ctx.toNat →
      exec (.rdovf loc) s = .next (latched s .badCtx (headInfo (encode (.rdovf loc))))) ∧
    (s.cfg.flagMode = .explicit →
      exec (.rdovf loc) s = .next (latched s .illegalOp (headInfo (encode (.rdovf loc)))))

/-- WROVF writes bit 0 of `a` into the context's flag and answers the old value; its faults are those of RDOVF. -/
def Obligations.WrovfResult : Prop :=
  Reads 0x1A (fun w => .wrovf (locBits w) (w.getLsbD 48)) ∧
  ∀ (loc : FlagLoc) (v : Bool) (s : State), s.halted = false →
    (s.cfg.flagMode = .shared → loc.ctx.toNat < s.cfg.nctx →
      exec (.wrovf loc v) s =
        .next { s with
          ovf := s.ovf.set loc.ctx.toNat v
          rsp := some (response v false ((BitVec.ofBool (s.ovf.getD loc.ctx.toNat false)).setWidth 32)) }) ∧
    (s.cfg.flagMode = .shared → s.cfg.nctx ≤ loc.ctx.toNat →
      exec (.wrovf loc v) s = .next (latched s .badCtx (headInfo (encode (.wrovf loc v))))) ∧
    (s.cfg.flagMode = .explicit →
      exec (.wrovf loc v) s = .next (latched s .illegalOp (headInfo (encode (.wrovf loc v)))))

/-- After WROVF v the context's flag is v, every other flag is as it was, and an RDOVF that follows answers v. -/
def Obligations.WrovfReadBack : Prop :=
  ∀ (loc : FlagLoc) (v : Bool) (s t : State), s.Inv → s.cfg.flagMode = .shared →
    loc.ctx.toNat < s.cfg.nctx → exec (.wrovf loc v) s = .next t →
    (∀ k, t.ovf.getD k false = if k = loc.ctx.toNat then v else s.ovf.getD k false) ∧
    exec (.rdovf loc) t = .next { t with rsp := some (response v false ((BitVec.ofBool v).setWidth 32)) }

/-- No arithmetic command changes a flag location from 1 to 0, in the bank or, in EXPLICIT mode, from `ovf_in` to the response. -/
def Obligations.FlagIsSticky : Prop :=
  ∀ (i : Instr) (s t : State), i.isFlagAccess = false → exec i s = .next t →
    (∀ k, s.ovf.getD k false = true → t.ovf.getD k false = true) ∧
    (s.cfg.flagMode = .explicit → i.loc.ovfIn = true → t.halted = false →
      ∃ r, t.rsp = some r ∧ r.getLsbD 33 = true)

/-- A step that takes a flag from 1 to 0 accepted a WROVF 0 on that context or pulled reset. -/
def Obligations.OnlyWrovfAndResetClear : Prop :=
  ∀ (s t : State) (k : Nat), step s = .next t → s.ovf.getD k false = true → t.ovf.getD k false = false →
    (∃ w loc, Ready s w ∧ decode w = .ok (.wrovf loc false) ∧ loc.ctx.toNat = k) ∨
    (∃ ms, s.moves = .resetLow :: ms)

/-- The result and the event of an arithmetic command are one function of the operation code, the operand fields, ERR_POLICY and
RND_SH, whatever the flag mode, the number of contexts, the flags, `ovf_in` and `ctx` are. -/
def Obligations.ModesGiveSameArithmetic : Prop :=
  ∃ f : BitVec 6 → BitVec 32 × BitVec 32 × BitVec 16 → ErrPolicy → Nat → BitVec 33,
    ∀ (i : Instr) (s t : State), i.isFlagAccess = false → exec i s = .next t → t.halted = false →
      ∃ r, t.rsp = some r ∧ r.extractLsb' 0 33 = f i.opcode i.fields s.cfg.errPolicy s.cfg.rndSh

/-- In SHARED mode a command on one context leaves every other context's flag, and neither its response nor its own flag nor
whether it faults depends on another context's. -/
def Obligations.ContextsAreIsolated : Prop :=
  ∀ (i : Instr) (s₁ s₂ t₁ t₂ : State), s₁.Inv → s₂.Inv → s₁.cfg = s₂.cfg → s₁.cfg.flagMode = .shared →
    i.loc.ctx.toNat < s₁.cfg.nctx → s₁.halted = false → s₂.halted = false →
    s₁.ovf.getD i.loc.ctx.toNat false = s₂.ovf.getD i.loc.ctx.toNat false →
    exec i s₁ = .next t₁ → exec i s₂ = .next t₂ →
    t₁.halted = t₂.halted ∧ (t₁.halted = false → t₁.rsp = t₂.rsp) ∧
    t₁.ovf.getD i.loc.ctx.toNat false = t₂.ovf.getD i.loc.ctx.toNat false ∧
    ∀ k, k ≠ i.loc.ctx.toNat → t₁.ovf.getD k false = s₁.ovf.getD k false

/-- In EXPLICIT mode a command's response depends on nothing but its own word and the parameters, and the bank is not touched. -/
def Obligations.ExplicitModeIsStateless : Prop :=
  ∀ (i : Instr) (s₁ s₂ t₁ t₂ : State), s₁.cfg = s₂.cfg → s₁.cfg.flagMode = .explicit →
    s₁.halted = false → s₂.halted = false → exec i s₁ = .next t₁ → exec i s₂ = .next t₂ →
    t₁.ovf = s₁.ovf ∧ t₁.halted = t₂.halted ∧ (t₁.halted = false → t₁.rsp = t₂.rsp)

/-! Laws across commands -/

/-- Shifting left by `-n` is shifting right by `n`, result, event and state, and the other way round, for every `n` but -32768. -/
def Obligations.ShiftSymmetry : Prop :=
  ∀ (loc : FlagLoc) (a : BitVec 16) (b : BitVec 32) (n : BitVec 16) (s : State), n ≠ 0x8000#16 → Accepts s loc →
    exec (.shl loc a (-n)) s = exec (.shr loc a n) s ∧
    exec (.shr loc a (-n)) s = exec (.shl loc a n) s ∧
    exec (.lShl loc b (-n)) s = exec (.lShr loc b n) s ∧
    exec (.lShr loc b (-n)) s = exec (.lShl loc b n) s

/-- Shifting a nonzero word left by its count of redundant sign bits signals nothing, keeps its sign and leaves its two top bits
different. -/
def Obligations.Normalises : Prop :=
  (∀ (loc : FlagLoc) (x : BitVec 16) (s : State), x ≠ 0 → Accepts s loc →
    ∃ t₁ t₂ r₁ r₂, exec (.normS loc x) s = .next t₁ ∧ t₁.rsp = some r₁ ∧
      exec (.shl loc x (r₁.extractLsb' 0 16)) t₁ = .next t₂ ∧ t₂.rsp = some r₂ ∧
      r₂.getLsbD 32 = false ∧ r₂.getLsbD 15 = decide (x.toInt < 0) ∧ r₂.getLsbD 14 = decide (0 < x.toInt)) ∧
  (∀ (loc : FlagLoc) (x : BitVec 32) (s : State), x ≠ 0 → Accepts s loc →
    ∃ t₁ t₂ r₁ r₂, exec (.normL loc x) s = .next t₁ ∧ t₁.rsp = some r₁ ∧
      exec (.lShl loc x (r₁.extractLsb' 0 16)) t₁ = .next t₂ ∧ t₂.rsp = some r₂ ∧
      r₂.getLsbD 32 = false ∧ r₂.getLsbD 31 = decide (x.toInt < 0) ∧ r₂.getLsbD 30 = decide (0 < x.toInt))

/-! The step, faults and reset -/

/-- Two accepted words that agree on every bit their operation code and the flag mode read leave the same response and the same
state but for the requester's own account of the words it sent; of a fault, the model's INFO keeps `ovf_in` and `ctx` as they were
sent (R161; log entry 5). -/
def Obligations.IgnoredBitsDoNotMatter : Prop :=
  ∀ (s t u : State) (w v : CmdWord), Ready s w → opBits w = opBits v →
    w &&& (usedMask (opBits w) &&& modeMask s.cfg) = v &&& (usedMask (opBits w) &&& modeMask s.cfg) →
    step s = .next t → step { s with req := some v } = .next u →
    t.accepted = s.accepted ++ [w] ∧ u = { t with info := u.info, accepted := s.accepted ++ [v] } ∧
      (t.halted = false → u.info = t.info)

/-- When the word at the port is accepted and decodes to a command, the step is that command's meaning, the port's offer consumed. -/
def Obligations.StepRunsDecoded : Prop :=
  ∀ (s : State) (w : CmdWord) (i : Instr), Ready s w → decode w = .ok i →
    step s = exec i (taken s w)

/-- An accepted word that spells no command raises ILLEGAL_OP with its head in INFO, and nothing else changes. -/
def Obligations.IllegalWordHalts : Prop :=
  ∀ (s : State) (w : CmdWord), Ready s w → Illegal s.cfg w →
    step s = .next (latched (taken s w) .illegalOp (headInfo w))

/-- In SHARED mode an accepted legal word whose context does not exist raises BAD_CTX with its head in INFO, whatever its operation; on
any other word, and in EXPLICIT mode, the fault does not exist. -/
def Obligations.BadContextHalts : Prop :=
  ∀ (s : State) (w : CmdWord), Ready s w →
    (¬ Illegal s.cfg w → s.cfg.flagMode = .shared → s.cfg.nctx ≤ (w.extractLsb' 80 8).toNat →
      step s = .next (latched (taken s w) .badCtx (headInfo w))) ∧
    ∀ t, step s = .next t → t.cause = .badCtx → s.cause ≠ .badCtx →
      ¬ Illegal s.cfg w ∧ s.cfg.flagMode = .shared ∧ s.cfg.nctx ≤ (w.extractLsb' 80 8).toNat

/-- Every accepted command ends: it offers a response on a block that is not halted, or it halts the block, offers none and leaves
the flags; in both cases nothing but the flags, the latch, the offer, the response and the account of accepted commands changes. -/
def Obligations.EveryCommandEnds : Prop :=
  ∀ (s : State) (w : CmdWord), Ready s w →
    ∃ t, step s = .next t ∧ t.cfg = s.cfg ∧ t.rstN = s.rstN ∧ t.moves = s.moves ∧ t.delivered = s.delivered ∧
      t.past = s.past ∧ t.accepted = s.accepted ++ [w] ∧ t.req = none ∧
      ((t.halted = false ∧ t.cause = s.cause ∧ t.info = s.info ∧ t.rsp ≠ none) ∨
        (t.halted = true ∧ t.rsp = none ∧ t.ovf = s.ovf))

/-- An accepted command halts the block exactly in the three cases the spec names, the first that holds being the one reported. -/
def Obligations.FaultsAreTheNamedOnes : Prop :=
  ∀ (s t : State) (w : CmdWord), s.Inv → Ready s w → step s = .next t →
    t.cause =
      if Illegal s.cfg w then .illegalOp
      else if s.cfg.flagMode = .shared ∧ s.cfg.nctx ≤ (w.extractLsb' 80 8).toNat then .badCtx
      else if opBits w = 0x18 ∧ s.cfg.errPolicy = .abort ∧
          DomainErr (w.extractLsb' 48 16) (w.extractLsb' 16 16) then .divDomain
      else .none

/-- A halted block offers nothing, shows its latch and takes no step unless reset is pulled next (the model answers that with its fault
`halted`, log entry 3); a block of invalid parameters takes none at all. -/
def Obligations.StepStops : Prop :=
  (∀ s : State, s.halted = true →
    s.pins = { reqReady := false, rsp := none, halted := true
               faultCause := s.cause.code, faultInfo := s.info }) ∧
  (∀ s : State, s.cfg.valid = true → s.halted = true → (∀ ms, s.moves ≠ .resetLow :: ms) →
    step s = .fault (.halted s.cause)) ∧
  (∀ s : State, (s.cfg.nctx = 0 ∨ 256 < s.cfg.nctx ∨ (s.cfg.rndSh ≠ 15 ∧ s.cfg.rndSh ≠ 16)) →
    step s = .refused .badConfig)

/-- Pulling reset puts every register at its reset value, discards an undelivered response and ends the run, whose delivered responses
are kept on record (a reset that is low already has no run to end; log entry 16); releasing it changes only the level. -/
def Obligations.ResetPulse : Prop :=
  (∀ (s : State) (ms : List Move), s.cfg.valid = true → s.accepting = none → s.moves = .resetLow :: ms →
    step s = .next
      { cfg := s.cfg
        ovf := match s.cfg.flagMode with
          | .shared => List.replicate s.cfg.nctx false
          | .explicit => []
        halted := false, cause := .none, info := 0, req := s.req, rsp := none, rstN := false
        moves := ms, accepted := [], delivered := []
        past := if s.rstN then s.past ++ [recordOf s] else s.past }) ∧
  (∀ (s : State) (ms : List Move), s.cfg.valid = true → s.halted = false → s.accepting = none →
    s.moves = .resetHigh :: ms → step s = .next { s with rstN := true, moves := ms })

/-- While reset is low no step moves a register from its reset value, accepts a command or offers a response. -/
def Obligations.ResetHolds : Prop :=
  ∀ s t : State, s.Inv → s.rstN = false → step s = .next t →
    t.ovf = resetBank s.cfg ∧ t.halted = false ∧ t.cause = .none ∧ t.info = 0 ∧ t.rsp = none ∧
      t.accepted = [] ∧ t.delivered = [] ∧ t.past = s.past ∧
      (s.req ≠ none → t.req = s.req)

/-- A step from a halted block pulled reset, and after it the block is not halted and every flag is 0. -/
def Obligations.OnlyResetLeavesHalt : Prop :=
  ∀ s t : State, s.halted = true → step s = .next t →
    (∃ ms, s.moves = .resetLow :: ms ∧ t.moves = ms) ∧ t.halted = false ∧ t.rstN = false ∧
      ∀ k, t.ovf.getD k false = false

/-- While a response waits and the requester does not take it the state does not change; when it takes it the response is delivered;
a word offered to an idle port stands on it. -/
def Obligations.PortHandshake : Prop :=
  (∀ (s : State) (r : RspWord), s.cfg.valid = true → s.halted = false → s.rsp = some r → s.moves = [] →
    step s = .next s) ∧
  (∀ (s : State) (r : RspWord) (ms : List Move), s.cfg.valid = true → s.rstN = true → s.halted = false →
    s.rsp = some r → s.moves = .take :: ms →
    step s = .next { s with rsp := none, delivered := s.delivered ++ [r], moves := ms }) ∧
  (∀ (s : State) (w : CmdWord) (ms : List Move), s.cfg.valid = true → s.halted = false → s.req = none →
    s.moves = .offer w :: ms → step s = .next { s with req := some w, moves := ms })

/-- A response is delivered only from the port and after those delivered before it; what was delivered stays, in the run or, once reset
has ended the run, on record. -/
def Obligations.ResponsesInOrder : Prop :=
  ∀ s t : State, s.Inv → step s = .next t →
    (t.delivered = s.delivered ∧ t.past = s.past) ∨
      (∃ r, s.rsp = some r ∧ t.delivered = s.delivered ++ [r] ∧ t.rsp = none ∧ t.ovf = s.ovf ∧ t.past = s.past) ∨
      ((∃ ms, s.moves = .resetLow :: ms) ∧ s.rstN = true ∧ t.delivered = [] ∧ t.past = s.past ++ [recordOf s])

/-- A block in its states: the current run has ended well exactly when reset is high, the block is not halted, no word waits on the port,
no response waits, and no word is to be offered before the next reset; then every accepted command has its response. -/
def Obligations.EndedWellMeans : Prop :=
  ∀ s : State, s.Inv →
    (s.endedWell = true ↔ s.rstN = true ∧ s.halted = false ∧ s.req = none ∧ s.rsp = none ∧
      ∀ pre w post, s.moves = pre ++ .offer w :: post → .resetLow ∈ pre) ∧
    (s.endedWell = true → s.delivered.length = s.accepted.length)

/-- A faulted run has not ended well and never will: no step from it but reset, which records it as faulted with the flags, the latch
and the responses it had, one fewer than its accepted commands; and no step takes a run off the record. -/
def Obligations.FaultedRunNeverEndsWell : Prop :=
  (∀ s : State, s.halted = true → s.endedWell = false ∧ s.faulted = true) ∧
  (∀ s t : State, s.Inv → s.halted = true → step s = .next t →
    t.past = s.past ++ [recordOf s] ∧ (recordOf s).faulted = true ∧ (recordOf s).endedWell = false ∧
      (recordOf s).accepted.length = (recordOf s).delivered.length + 1 ∧ t.allEndedWell = false) ∧
  (∀ s t : State, step s = .next t → ∃ rs, t.past = s.past ++ rs)

/-- From an idle block, a requester that sends finitely many commands and takes each response reaches the end of the run: where none of
them faults, every command is accepted, in the order sent, and answered, and the run has ended well; where one faults, the block halts
(the model then answers its fault `halted`, log entry 3). -/
def Obligations.FiniteRunsEnd : Prop :=
  ∀ (s : State) (ws : List CmdWord), s.Inv → s.rstN = true → s.halted = false → s.req = none → s.rsp = none →
    s.moves = sendAll ws →
    ((∀ w ∈ ws, ¬ Faults s.cfg w) → ∃ t rs,
      Host.Core.run core (3 * ws.length) s = .next t ∧ t.endedWell = true ∧ t.moves = [] ∧
      t.accepted = s.accepted ++ ws ∧ t.delivered = s.delivered ++ rs ∧ rs.length = ws.length) ∧
    ((∃ w ∈ ws, Faults s.cfg w) → ∃ c, c ≠ .none ∧ Host.Core.run core (3 * ws.length) s = .fault (.halted c))

/-- A step that accepts no command offers no new response, changes no flag but by reset, and raises no fault. -/
def Obligations.NothingUnasked : Prop :=
  ∀ s t : State, step s = .next t → s.accepting = none →
    (t.ovf = s.ovf ∨ ∃ ms, s.moves = .resetLow :: ms) ∧ (t.rsp = s.rsp ∨ t.rsp = none) ∧
      (t.halted = true → s.halted = true)

/-- No step writes a build parameter, and no step reads LATENCY. -/
def Obligations.ParametersAreFixed : Prop :=
  (∀ s t : State, step s = .next t → t.cfg = s.cfg) ∧
  (∀ (s : State) (n : Nat), step (withLatency n s) = mapNext (withLatency n) (step s))

/-- Every step keeps the invariant of Safety.lean. -/
def Obligations.StepKeepsInv : Prop := ∀ s t : State, s.Inv → step s = .next t → t.Inv

/-- The reset state of every valid configuration has the invariant, State.reset among them (its configuration is the model's choice,
log entry 1). -/
def Obligations.ResetHasInv : Prop :=
  (∀ c : Config, c.valid = true → (State.resetWith c).Inv) ∧ State.reset.Inv
end

