-- ==== Sys2Proof/Laws/Operands.lean ====
section
/-! SUPPORT. Laws of the conversions of 00_scope.md R10: ranges, clamps, the 32-bit wrap, powers of two and the floor shift. -/
namespace Sys2Proof.Machine

theorem s16_range (f : Word16) : min16 ≤ s16 f ∧ s16 f ≤ max16 := by
  have := BitVec.toInt_lt (x := f)
  have := BitVec.le_toInt (x := f)
  unfold s16 min16 max16; omega

theorem s32_range (f : Word32) : min32 ≤ s32 f ∧ s32 f ≤ max32 := by
  have := BitVec.toInt_lt (x := f)
  have := BitVec.le_toInt (x := f)
  unfold s32 min32 max32; omega

theorem wrap32_cases (x : Int) (h1 : -6442450944 ≤ x) (h2 : x < 6442450944) :
    wrap32 x = if x < min32 then x + 4294967296 else if x > max32 then x - 4294967296 else x := by
  have : wrap32 x = x.bmod (2 ^ 32) := by simp [wrap32, s32, u32, BitVec.toInt_ofInt]
  rw [this, Int.bmod_def]
  unfold min32 max32
  split <;> split <;> (try split) <;> omega

theorem wrap32_of_inRange (x : Int) (h1 : min32 ≤ x) (h2 : x ≤ max32) : wrap32 x = x := by
  rw [wrap32_cases x (by unfold min32 at h1; omega) (by unfold max32 at h2; omega), if_neg (by omega), if_neg (by omega)]

/-- The result field of a Word16 result in range is the 32-bit pattern of the integer itself (30_encoding.md R54). -/
theorem result16_eq (x : Int) (h1 : min16 ≤ x) (h2 : x ≤ max16) : sext32 (u16 x) = BitVec.ofInt 32 x := by
  unfold min16 at h1; unfold max16 at h2
  have : (BitVec.ofInt 16 x).toInt = x := by
    rw [BitVec.toInt_ofInt, Int.bmod_def]
    split <;> omega
  rw [sext32, u16, s16, this, u32]

theorem inRange16_iff (x : Int) : inRange16 x = true ↔ min16 ≤ x ∧ x ≤ max16 := by simp [inRange16]
theorem inRange32_iff (x : Int) : inRange32 x = true ↔ min32 ≤ x ∧ x ≤ max32 := by simp [inRange32]
theorem inRange16_false_iff (x : Int) : inRange16 x = false ↔ x < min16 ∨ max16 < x := by
  rw [← Bool.not_eq_true, inRange16_iff]; omega
theorem inRange32_false_iff (x : Int) : inRange32 x = false ↔ x < min32 ∨ max32 < x := by
  rw [← Bool.not_eq_true, inRange32_iff]; omega

theorem clamp16_of_inRange (x : Int) (h : inRange16 x = true) : clamp16 x = x := by
  rw [inRange16_iff] at h; unfold clamp16 min16 max16 at *; omega

theorem clamp32_of_inRange (x : Int) (h : inRange32 x = true) : clamp32 x = x := by
  rw [inRange32_iff] at h; unfold clamp32 min32 max32 at *; omega

theorem clamp16_of_above (x : Int) (h : x > max16) : clamp16 x = max16 := by
  unfold clamp16 min16 max16 at *; omega

theorem clamp16_of_below (x : Int) (h : x < min16) : clamp16 x = min16 := by
  unfold clamp16 min16 max16 at *; omega

theorem clamp32_of_above (x : Int) (h : x > max32) : clamp32 x = max32 := by
  unfold clamp32 min32 max32 at *; omega

theorem clamp32_of_below (x : Int) (h : x < min32) : clamp32 x = min32 := by
  unfold clamp32 min32 max32 at *; omega

theorem clamp16_range (x : Int) : min16 ≤ clamp16 x ∧ clamp16 x ≤ max16 := by
  unfold clamp16 min16 max16; omega

theorem clamp32_range (x : Int) : min32 ≤ clamp32 x ∧ clamp32 x ≤ max32 := by
  unfold clamp32 min32 max32; omega

theorem pow2_pos (n : Nat) : 0 < pow2 n := by unfold pow2; exact_mod_cast Nat.two_pow_pos n

theorem pow2_succ (n : Nat) : pow2 (n + 1) = 2 * pow2 n := by
  unfold pow2; rw [Nat.pow_succ]; push_cast; ring

theorem pow2_mono (m n : Nat) (h : m ≤ n) : pow2 m ≤ pow2 n := by
  unfold pow2; exact_mod_cast Nat.pow_le_pow_right (by decide) h

theorem floorShift_zero (a : Int) : floorShift a 0 = a := by
  simp [floorShift, pow2]

theorem floorShift_small (a : Int) (n : Nat) (h1 : -pow2 n ≤ a) (h2 : a < pow2 n) :
    floorShift a n = if a < 0 then -1 else 0 := by
  unfold floorShift
  split
  · have h := Int.add_mul_ediv_right a 1 (pow2_pos n).ne'
    rw [Int.ediv_eq_zero_of_lt (by omega) (by omega)] at h
    omega
  · exact Int.ediv_eq_zero_of_lt (by omega) h2

theorem bitNot_floorShift (a : Int) (n : Nat) : bitNot (floorShift (bitNot a) n) = floorShift a n := by
  have hp := pow2_pos n
  unfold bitNot floorShift
  have hr := Int.emod_nonneg a hp.ne'
  have hl := Int.emod_lt_of_pos a hp
  have hd := Int.mul_ediv_add_emod a (pow2 n)
  have : -a - 1 = (pow2 n - 1 - a % pow2 n) + (-(a / pow2 n) - 1) * pow2 n := by linarith
  rw [this, Int.add_mul_ediv_right _ _ hp.ne', Int.ediv_eq_zero_of_lt (by omega) (by omega)]
  omega

/-- A nonzero integer moved left by `n` places is at least `2^n` in absolute value. -/
theorem shifted_large (a : Int) (k n : Nat) (h : k ≤ n) (h0 : a ≠ 0) :
    a * pow2 n ≥ pow2 k ∨ a * pow2 n ≤ -pow2 k := by
  have := pow2_mono k n h
  have := pow2_pos k
  rcases lt_or_gt_of_ne h0 with hlt | hgt
  · right; nlinarith
  · left; nlinarith

/-- The sign of a shifted value is the sign of the operand. -/
theorem shifted_pos (a : Int) (n : Nat) : 0 < a * pow2 n ↔ 0 < a := by
  have := pow2_pos n
  constructor
  · intro h; by_contra hc; nlinarith
  · intro h; exact Int.mul_pos h this

end Sys2Proof.Machine
end

