-- ==== Sys2Proof/Laws/Arith.lean ====
section
/-! SUPPORT. What the stages of the saturating, additive and multiplicative primitives compute, in closed form
(40_saturation.md R71, 41_additive.md R81, 42_multiplicative.md R90 to R92). -/
namespace Sys2Proof.Machine

/-- `saturate` clamps and signals exactly outside the Word16 range (R71). -/
theorem saturate_eq (w : Int) : saturate w = (clamp16 w, !inRange16 w) := by
  unfold saturate clamp16 inRange16 max16 min16
  split
  · simp; omega
  · split
    · simp; omega
    · simp; omega

/-- The sign test of L_add finds exactly the sums outside the Word32 range (R78, R81). -/
theorem lAdd_eq (a b : Int) (ha : min32 ≤ a ∧ a ≤ max32) (hb : min32 ≤ b ∧ b ≤ max32) :
    lAdd a b = (clamp32 (a + b), !inRange32 (a + b)) := by
  have hw := wrap32_cases (a + b) (by unfold min32 at *; omega) (by unfold max32 at *; omega)
  unfold lAdd isNeg
  unfold bound32 clamp32 inRange32
  rw [hw]
  unfold min32 max32 at *
  by_cases h1 : a < 0 <;> by_cases h2 : b < 0 <;> by_cases h3 : a + b < -2147483648 <;> by_cases h4 : a + b > 2147483647 <;>
    simp [h1, h2, h3, h4] <;> (try split) <;> (try simp) <;> omega

/-- The sign test of L_sub finds exactly the differences outside the Word32 range (R79, R81). -/
theorem lSub_eq (a b : Int) (ha : min32 ≤ a ∧ a ≤ max32) (hb : min32 ≤ b ∧ b ≤ max32) :
    lSub a b = (clamp32 (a - b), !inRange32 (a - b)) := by
  have hw := wrap32_cases (a - b) (by unfold min32 max32 at *; omega) (by unfold min32 max32 at *; omega)
  unfold lSub isNeg
  unfold bound32 clamp32 inRange32
  rw [hw]
  unfold min32 max32 at *
  by_cases h1 : a < 0 <;> by_cases h2 : b < 0 <;> by_cases h3 : a - b < -2147483648 <;> by_cases h4 : a - b > 2147483647 <;>
    simp [h1, h2, h3, h4] <;> (try split) <;> (try simp) <;> omega

theorem lNegate_eq (a : Int) (ha : min32 ≤ a ∧ a ≤ max32) :
    lNegate a = (clamp32 (-a), !inRange32 (-a)) := by
  rw [lNegate, lSub_eq 0 a (by decide) ha, Int.zero_sub]

theorem negate16_eq (a : Int) (ha : min16 ≤ a ∧ a ≤ max16) :
    negate16 a = (clamp16 (-a), !inRange16 (-a)) := by
  unfold negate16 clamp16 inRange16
  unfold min16 max16 at *
  split
  · subst a; decide
  · simp; omega

/-- The exact product of two Word16 values fits a Word32 (42_multiplicative.md, before R90). -/
theorem mul_range (a b : Int) (ha : min16 ≤ a ∧ a ≤ max16) (hb : min16 ≤ b ∧ b ≤ max16) :
    -1073709056 ≤ a * b ∧ a * b ≤ 1073741824 := by
  unfold min16 max16 at *
  constructor <;> nlinarith

theorem mul_eq_top (a b : Int) (ha : min16 ≤ a ∧ a ≤ max16) (hb : min16 ≤ b ∧ b ≤ max16) :
    a * b = 1073741824 ↔ a = min16 ∧ b = min16 := by
  unfold min16 max16 at *
  constructor
  · intro h
    constructor <;> nlinarith
  · rintro ⟨rfl, rfl⟩; decide

theorem lMult_eq (a b : Int) (ha : min16 ≤ a ∧ a ≤ max16) (hb : min16 ≤ b ∧ b ≤ max16) :
    lMult a b = (clamp32 (2 * (a * b)), !inRange32 (2 * (a * b))) := by
  have := mul_range a b ha hb
  unfold lMult clamp32 inRange32 min32 max32
  have hp : pow2 30 = 1073741824 := by decide
  rw [hp]
  generalize a * b = p at *
  split
  · subst p; decide
  · simp; omega

/-- The bit steps of `mult_r` are an arithmetic right shift by 15 (R91). -/
theorem rounded_bits (v : Word32) :
    (if ((v &&& 0xFFFF8000#32) >>> 15).getLsbD 16 then ((v &&& 0xFFFF8000#32) >>> 15) ||| 0xFFFF0000#32
      else (v &&& 0xFFFF8000#32) >>> 15) = v.sshiftRight 15 := by
  have hb : ∀ j, j < 32 → (0xFFFF8000#32).getLsbD j = decide (15 ≤ j) := by decide
  have hc : ∀ j, j < 32 → (0xFFFF0000#32).getLsbD j = decide (16 ≤ j) := by decide
  have hu : ∀ i, ((v &&& 0xFFFF8000#32) >>> 15).getLsbD i = v.getLsbD (15 + i) := by
    intro i
    rw [BitVec.getLsbD_ushiftRight, BitVec.getLsbD_and]
    rcases Nat.lt_or_ge (15 + i) 32 with lo | hi
    · simp [hb _ lo]
    · simp [BitVec.getLsbD_of_ge v _ hi]
  have hs : v.getLsbD 31 = v.msb := by rw [BitVec.msb_eq_getLsbD_last]
  apply BitVec.eq_of_getLsbD_eq
  intro i hi
  rw [BitVec.getLsbD_sshiftRight, hu 16]
  split
  · rename_i h31
    rw [BitVec.getLsbD_or, hu, hc i hi]
    rcases Nat.lt_or_ge i 16 with lo | hi16
    · simp [show ¬ 16 ≤ i by omega, show ¬ 32 ≤ i by omega, show 15 + i < 32 by omega]
    · rcases Nat.lt_or_ge i 17 with lo17 | hi17
      · have : i = 16 := by omega
        subst this; simp [show v.getLsbD 31 = true from h31]
      · simp [hi16, show ¬ 32 ≤ i by omega, show ¬ 15 + i < 32 by omega, ← hs]; exact h31
  · rename_i h31
    rw [hu]
    rcases Nat.lt_or_ge i 17 with lo | hi17
    · simp [show ¬ 32 ≤ i by omega, show 15 + i < 32 by omega]
    · rw [BitVec.getLsbD_of_ge v _ (by omega)]
      simp [show ¬ 15 + i < 32 by omega, ← hs]
      intro _
      simpa using h31

theorem roundedProduct_eq (a b : Int) (ha : min16 ≤ a ∧ a ≤ max16) (hb : min16 ≤ b ∧ b ≤ max16) :
    s32 (roundedProduct a b) = floorShift (a * b + pow2 14) 15 := by
  have := mul_range a b ha hb
  have h14 : pow2 14 = 0x4000 := by decide
  have h15 : pow2 15 = 32768 := by decide
  unfold roundedProduct floorShift
  rw [h14, h15]
  generalize hx : a * b + 0x4000 = x at *
  have hxr : -1073692672 ≤ x ∧ x ≤ 1073758208 := by omega
  have hu : (u32 x).toInt = x := by
    have := wrap32_cases x (by omega) (by omega)
    unfold wrap32 s32 at this
    rw [this]; unfold min32 max32
    split
    · omega
    · split <;> omega
  rw [rounded_bits, s32, BitVec.toInt_sshiftRight, hu, Int.shiftRight_eq_div_pow]
  rfl

end Sys2Proof.Machine
end

