-- ==== Sys2Proof/Laws/Decode.lean ====
section
/-! SUPPORT. The fields of a packed command word (30_encoding.md R51), and what the decoder keeps of a word's head. -/
namespace Sys2Proof

theorem extract_append_above {v w : Nat} (x : BitVec v) (y : BitVec w) (k len : Nat) :
    (x ++ y).extractLsb' (w + k) len = x.extractLsb' k len := by
  ext i hi
  simp [BitVec.getLsbD_append, Nat.add_assoc]

theorem extract_append_low {v w : Nat} (x : BitVec v) (y : BitVec w) (k len : Nat) (h : k + len ≤ w) :
    (x ++ y).extractLsb' k len = y.extractLsb' k len := by
  ext i hi
  have : k + i < w := by omega
  simp [BitVec.getLsbD_append, this]

theorem extract_whole {w : Nat} (x : BitVec w) : x.extractLsb' 0 w = x := by simp

theorem getLsbD_append_above {v w : Nat} (x : BitVec v) (y : BitVec w) (k : Nat) :
    (x ++ y).getLsbD (w + k) = x.getLsbD k := by
  simp [BitVec.getLsbD_append]

section pack
variable (op : BitVec 6) (oi r0 : Bool) (ctx : BitVec 8) (h : BitVec 16) (a b : Word32) (c : Word16)

@[simp] theorem head_packCmd : CmdWord.head (packCmd h a b c) = h :=
  (extract_append_above (h ++ a ++ b) c 64 16).trans
    ((extract_append_above (h ++ a) b 32 16).trans ((extract_append_above h a 0 16).trans (extract_whole h)))

@[simp] theorem a_packCmd : CmdWord.a (packCmd h a b c) = a :=
  (extract_append_above (h ++ a ++ b) c 32 32).trans
    ((extract_append_above (h ++ a) b 0 32).trans
      ((extract_append_low h a 0 32 (by decide)).trans (extract_whole a)))

@[simp] theorem b_packCmd : CmdWord.b (packCmd h a b c) = b :=
  (extract_append_above (h ++ a ++ b) c 0 32).trans
    ((extract_append_low (h ++ a) b 0 32 (by decide)).trans (extract_whole b))

@[simp] theorem c_packCmd : CmdWord.c (packCmd h a b c) = c :=
  (extract_append_low (h ++ a ++ b) c 0 16 (by decide)).trans (extract_whole c)

@[simp] theorem packHead_op : (packHead op oi r0 ctx).extractLsb' 10 6 = op :=
  (extract_append_above (op ++ BitVec.ofBool oi ++ BitVec.ofBool r0) ctx 2 6).trans
    ((extract_append_above (op ++ BitVec.ofBool oi) (BitVec.ofBool r0) 1 6).trans
      ((extract_append_above op (BitVec.ofBool oi) 0 6).trans (extract_whole op)))

theorem packHead_ovfIn : (packHead op oi r0 ctx).getLsbD 9 = oi :=
  (getLsbD_append_above (op ++ BitVec.ofBool oi ++ BitVec.ofBool r0) ctx 1).trans
    ((getLsbD_append_above (op ++ BitVec.ofBool oi) (BitVec.ofBool r0) 0).trans
      ((BitVec.getLsbD_append (x := op) (y := BitVec.ofBool oi) (i := 0)).trans (by cases oi <;> rfl)))

theorem packHead_rsv0 : (packHead op oi r0 ctx).getLsbD 8 = r0 :=
  (getLsbD_append_above (op ++ BitVec.ofBool oi ++ BitVec.ofBool r0) ctx 0).trans
    ((BitVec.getLsbD_append (x := op ++ BitVec.ofBool oi) (y := BitVec.ofBool r0) (i := 0)).trans
      (by cases r0 <;> rfl))

@[simp] theorem packHead_ctx : (packHead op oi r0 ctx).extractLsb' 0 8 = ctx :=
  (extract_append_low (op ++ BitVec.ofBool oi ++ BitVec.ofBool r0) ctx 0 8 (by decide)).trans (extract_whole ctx)

end pack

section head
variable (w : CmdWord)

theorem op_eq_head : CmdWord.op w = (CmdWord.head w).extractLsb' 10 6 := by
  ext i hi; simp [CmdWord.op, CmdWord.head, ← Nat.add_assoc]; intro _; omega

theorem ovfIn_eq_head : CmdWord.ovfIn w = (CmdWord.head w).getLsbD 9 := by
  simp [CmdWord.ovfIn, CmdWord.head]

theorem rsv0_eq_head : CmdWord.rsv0 w = (CmdWord.head w).getLsbD 8 := by
  simp [CmdWord.rsv0, CmdWord.head]

theorem ctx_eq_head : CmdWord.ctx w = (CmdWord.head w).extractLsb' 0 8 := by
  ext i hi; simp [CmdWord.ctx, CmdWord.head]; omega

/-- Two heads with the same four fields are equal. -/
theorem head_ext (g k : BitVec 16) (h1 : g.extractLsb' 10 6 = k.extractLsb' 10 6)
    (h2 : g.getLsbD 9 = k.getLsbD 9) (h3 : g.getLsbD 8 = k.getLsbD 8)
    (h4 : g.extractLsb' 0 8 = k.extractLsb' 0 8) : g = k := by
  apply BitVec.eq_of_getLsbD_eq
  intro i hi
  rcases Nat.lt_or_ge i 8 with lo | hi8
  · have := congrArg (·.getLsbD i) h4
    simpa [lo] using this
  · rcases Nat.lt_or_ge i 10 with mid | hi10
    · interval_cases i
      · exact h3
      · exact h2
    · have := congrArg (·.getLsbD (i - 10)) h1
      simpa [show i - 10 < 6 by omega, show 10 + (i - 10) = i by omega] using this

theorem head_eq_packHead :
    CmdWord.head w = packHead (CmdWord.op w) (CmdWord.ovfIn w) (CmdWord.rsv0 w) (CmdWord.ctx w) := by
  apply head_ext
  · rw [packHead_op, op_eq_head]
  · rw [packHead_ovfIn, ovfIn_eq_head]
  · rw [packHead_rsv0, rsv0_eq_head]
  · rw [packHead_ctx, ctx_eq_head]

end head

section encoded
variable (i : Instr)

@[simp] theorem encode_head : CmdWord.head (encode i) = i.head := head_packCmd _ _ _ _
@[simp] theorem encode_a : CmdWord.a (encode i) = i.fields.1 := a_packCmd _ _ _ _
@[simp] theorem encode_b : CmdWord.b (encode i) = i.fields.2.1 := b_packCmd _ _ _ _
@[simp] theorem encode_c : CmdWord.c (encode i) = i.fields.2.2 := c_packCmd _ _ _ _
@[simp] theorem encode_op : CmdWord.op (encode i) = i.opcode := by
  rw [op_eq_head, encode_head, Instr.head, packHead_op]
@[simp] theorem encode_ovfIn : CmdWord.ovfIn (encode i) = i.loc.ovfIn := by
  rw [ovfIn_eq_head, encode_head, Instr.head, packHead_ovfIn]
@[simp] theorem encode_rsv0 : CmdWord.rsv0 (encode i) = false := by
  rw [rsv0_eq_head, encode_head, Instr.head, packHead_rsv0]
@[simp] theorem encode_ctx : CmdWord.ctx (encode i) = i.loc.ctx := by
  rw [ctx_eq_head, encode_head, Instr.head, packHead_ctx]
@[simp] theorem encode_loc : CmdWord.loc (encode i) = i.loc := by
  simp [CmdWord.loc]

/-- The low half of a Word16 operand as the encoder fills its field (R53, R61). -/
@[simp] theorem setWidth_signExtend (a : Word16) : (a.signExtend 32).setWidth 16 = a := by
  apply BitVec.eq_of_getLsbD_eq
  intro j hj
  simp [BitVec.getElem_signExtend, hj, show j < 32 by omega]

end encoded

theorem op_of_toNat (w : CmdWord) (n : Nat) (hn : (CmdWord.op w).toNat = n) :
    CmdWord.op w = BitVec.ofNat 6 n := by
  rw [← hn]; simp

/-- A word the decoder accepts has `rsv0 = 0` (R57). -/
theorem rsv0_of_decode (w : CmdWord) (i : Instr) (h : decode w = .ok i) : CmdWord.rsv0 w = false := by
  cases hr : CmdWord.rsv0 w
  · rfl
  · simp [decode, hr] at h

/-- The decoder keeps bits 95:80, so a fault of the decoded command records the word's own (60_exceptions.md R161). -/
theorem decode_head (w : CmdWord) (i : Instr) (h : decode w = .ok i) : CmdWord.head w = i.head := by
  have hr := rsv0_of_decode w i h
  rw [head_eq_packHead, hr]
  unfold decode at h
  simp only [hr, Bool.false_eq_true, if_false] at h
  split at h <;> first
    | (rename_i hn; cases h; rw [op_of_toNat w _ hn]; rfl)
    | cases h

/-- The flag location of a decoded command is the word's (R51). -/
theorem decode_loc (w : CmdWord) (i : Instr) (h : decode w = .ok i) : i.loc = CmdWord.loc w := by
  have hr := rsv0_of_decode w i h
  unfold decode at h
  simp only [hr, Bool.false_eq_true, if_false] at h
  split at h <;> first | (cases h; rfl) | cases h

end Sys2Proof
end

