-- ==== Sys2Proof/Laws/Division.lean ====
section
/-! SUPPORT. The restoring division in closed form (45_division.md R142, R147). -/
namespace Sys2Proof.Machine

/-- After `n` iterations the pair is the quotient and the remainder of `l * 2^n` by `den` (R142). -/
theorem divLoop_spec (den : Int) : ∀ (n : Nat) (q l : Int), 0 ≤ l → l < den →
    divLoop den n (q, l) = (q * pow2 n + l * pow2 n / den, l * pow2 n % den) := by
  intro n
  induction n with
  | zero =>
    intro q l h0 h1
    simp [divLoop, pow2, Int.ediv_eq_zero_of_lt h0 h1, Int.emod_eq_of_lt h0 h1]
  | succ n ih =>
    intro q l h0 h1
    unfold divLoop divStep
    simp only
    split
    · rename_i h
      rw [ih _ _ (by omega) (by omega), pow2_succ]
      have e : l * (2 * pow2 n) = (2 * l - den) * pow2 n + pow2 n * den := by ring
      rw [e, Int.add_mul_ediv_right _ _ (by omega), Int.add_mul_emod_self_right]
      congr 1; ring
    · rw [ih _ _ (by omega) (by omega), pow2_succ]
      have e : l * (2 * pow2 n) = (2 * l) * pow2 n := by ring
      rw [e]
      congr 1; ring

theorem divCore_eq (num den : Int) (h0 : 0 ≤ num) (h1 : num < den) :
    divCore num den = (num * 32768 / den, false) := by
  have hp : pow2 15 = 32768 := by decide
  unfold divCore
  split
  · subst num; simp
  · rw [if_neg (by omega), divLoop_spec den 15 0 num h0 h1, hp]; simp

end Sys2Proof.Machine
end

