-- ==== Sys2Proof/Laws/State.lean ====
section
/-! SUPPORT. What each update of the state does to each field: one lemma a field, so that no later proof unfolds an update. -/
namespace Sys2Proof.Machine

variable (s : State)

/-! `State.raiseFault` -/

@[simp] theorem State.raiseFault_cfg (c : Cause) (x : BitVec 32) : (s.raiseFault c x).cfg = s.cfg := rfl
@[simp] theorem State.raiseFault_ovf (c : Cause) (x : BitVec 32) : (s.raiseFault c x).ovf = s.ovf := rfl
@[simp] theorem State.raiseFault_halted (c : Cause) (x : BitVec 32) : (s.raiseFault c x).halted = true := rfl
@[simp] theorem State.raiseFault_cause (c : Cause) (x : BitVec 32) : (s.raiseFault c x).cause = c := rfl
@[simp] theorem State.raiseFault_info (c : Cause) (x : BitVec 32) : (s.raiseFault c x).info = x := rfl
@[simp] theorem State.raiseFault_req (c : Cause) (x : BitVec 32) : (s.raiseFault c x).req = s.req := rfl
@[simp] theorem State.raiseFault_rsp (c : Cause) (x : BitVec 32) : (s.raiseFault c x).rsp = s.rsp := rfl
@[simp] theorem State.raiseFault_rstN (c : Cause) (x : BitVec 32) : (s.raiseFault c x).rstN = s.rstN := rfl
@[simp] theorem State.raiseFault_moves (c : Cause) (x : BitVec 32) : (s.raiseFault c x).moves = s.moves := rfl
@[simp] theorem State.raiseFault_delivered (c : Cause) (x : BitVec 32) : (s.raiseFault c x).delivered = s.delivered := rfl
@[simp] theorem State.raiseFault_accepted (c : Cause) (x : BitVec 32) : (s.raiseFault c x).accepted = s.accepted := rfl
@[simp] theorem State.raiseFault_past (c : Cause) (x : BitVec 32) : (s.raiseFault c x).past = s.past := rfl

/-! `State.respond` -/

@[simp] theorem State.respond_cfg (r : Word32) (e f : Bool) : (s.respond r e f).cfg = s.cfg := rfl
@[simp] theorem State.respond_ovf (r : Word32) (e f : Bool) : (s.respond r e f).ovf = s.ovf := rfl
@[simp] theorem State.respond_halted (r : Word32) (e f : Bool) : (s.respond r e f).halted = s.halted := rfl
@[simp] theorem State.respond_cause (r : Word32) (e f : Bool) : (s.respond r e f).cause = s.cause := rfl
@[simp] theorem State.respond_info (r : Word32) (e f : Bool) : (s.respond r e f).info = s.info := rfl
@[simp] theorem State.respond_req (r : Word32) (e f : Bool) : (s.respond r e f).req = s.req := rfl
@[simp] theorem State.respond_rsp (r : Word32) (e f : Bool) : (s.respond r e f).rsp = some (packRsp f e r) := rfl
@[simp] theorem State.respond_rstN (r : Word32) (e f : Bool) : (s.respond r e f).rstN = s.rstN := rfl
@[simp] theorem State.respond_moves (r : Word32) (e f : Bool) : (s.respond r e f).moves = s.moves := rfl
@[simp] theorem State.respond_delivered (r : Word32) (e f : Bool) : (s.respond r e f).delivered = s.delivered := rfl
@[simp] theorem State.respond_accepted (r : Word32) (e f : Bool) : (s.respond r e f).accepted = s.accepted := rfl
@[simp] theorem State.respond_past (r : Word32) (e f : Bool) : (s.respond r e f).past = s.past := rfl

/-! `State.writeOvf` -/

@[simp] theorem State.writeOvf_cfg (k : BitVec 8) (v : Bool) : (s.writeOvf k v).cfg = s.cfg := rfl
@[simp] theorem State.writeOvf_ovf (k : BitVec 8) (v : Bool) : (s.writeOvf k v).ovf = s.ovf.set k.toNat v := rfl
@[simp] theorem State.writeOvf_halted (k : BitVec 8) (v : Bool) : (s.writeOvf k v).halted = s.halted := rfl
@[simp] theorem State.writeOvf_cause (k : BitVec 8) (v : Bool) : (s.writeOvf k v).cause = s.cause := rfl
@[simp] theorem State.writeOvf_info (k : BitVec 8) (v : Bool) : (s.writeOvf k v).info = s.info := rfl
@[simp] theorem State.writeOvf_req (k : BitVec 8) (v : Bool) : (s.writeOvf k v).req = s.req := rfl
@[simp] theorem State.writeOvf_rsp (k : BitVec 8) (v : Bool) : (s.writeOvf k v).rsp = s.rsp := rfl
@[simp] theorem State.writeOvf_rstN (k : BitVec 8) (v : Bool) : (s.writeOvf k v).rstN = s.rstN := rfl
@[simp] theorem State.writeOvf_moves (k : BitVec 8) (v : Bool) : (s.writeOvf k v).moves = s.moves := rfl
@[simp] theorem State.writeOvf_delivered (k : BitVec 8) (v : Bool) : (s.writeOvf k v).delivered = s.delivered := rfl
@[simp] theorem State.writeOvf_accepted (k : BitVec 8) (v : Bool) : (s.writeOvf k v).accepted = s.accepted := rfl
@[simp] theorem State.writeOvf_past (k : BitVec 8) (v : Bool) : (s.writeOvf k v).past = s.past := rfl

/-! `State.consume` -/

@[simp] theorem State.consume_cfg (w : CmdWord) : (s.consume w).cfg = s.cfg := rfl
@[simp] theorem State.consume_ovf (w : CmdWord) : (s.consume w).ovf = s.ovf := rfl
@[simp] theorem State.consume_halted (w : CmdWord) : (s.consume w).halted = s.halted := rfl
@[simp] theorem State.consume_cause (w : CmdWord) : (s.consume w).cause = s.cause := rfl
@[simp] theorem State.consume_info (w : CmdWord) : (s.consume w).info = s.info := rfl
@[simp] theorem State.consume_req (w : CmdWord) : (s.consume w).req = none := rfl
@[simp] theorem State.consume_rsp (w : CmdWord) : (s.consume w).rsp = s.rsp := rfl
@[simp] theorem State.consume_rstN (w : CmdWord) : (s.consume w).rstN = s.rstN := rfl
@[simp] theorem State.consume_moves (w : CmdWord) : (s.consume w).moves = s.moves := rfl
@[simp] theorem State.consume_accepted (w : CmdWord) : (s.consume w).accepted = s.accepted ++ [w] := rfl
@[simp] theorem State.consume_delivered (w : CmdWord) : (s.consume w).delivered = s.delivered := rfl
@[simp] theorem State.consume_past (w : CmdWord) : (s.consume w).past = s.past := rfl

/-! `State.runRecord` -/

@[simp] theorem State.runRecord_accepted : s.runRecord.accepted = s.accepted := rfl
@[simp] theorem State.runRecord_delivered : s.runRecord.delivered = s.delivered := rfl
@[simp] theorem State.runRecord_unsent : s.runRecord.unsent = s.req.toList ++ stillToSend s.moves := rfl
@[simp] theorem State.runRecord_ovf : s.runRecord.ovf = s.ovf := rfl
@[simp] theorem State.runRecord_halted : s.runRecord.halted = s.halted := rfl
@[simp] theorem State.runRecord_cause : s.runRecord.cause = s.cause := rfl
@[simp] theorem State.runRecord_info : s.runRecord.info = s.info := rfl

/-! `State.assertReset` -/

@[simp] theorem State.assertReset_cfg : (s.assertReset).cfg = s.cfg := rfl
@[simp] theorem State.assertReset_ovf : (s.assertReset).ovf = resetBank s.cfg := rfl
@[simp] theorem State.assertReset_halted : (s.assertReset).halted = false := rfl
@[simp] theorem State.assertReset_cause : (s.assertReset).cause = .none := rfl
@[simp] theorem State.assertReset_info : (s.assertReset).info = 0 := rfl
@[simp] theorem State.assertReset_req : (s.assertReset).req = s.req := rfl
@[simp] theorem State.assertReset_rsp : (s.assertReset).rsp = none := rfl
@[simp] theorem State.assertReset_rstN : (s.assertReset).rstN = false := rfl
@[simp] theorem State.assertReset_moves : (s.assertReset).moves = s.moves := rfl
@[simp] theorem State.assertReset_delivered : (s.assertReset).delivered = [] := rfl
@[simp] theorem State.assertReset_accepted : (s.assertReset).accepted = [] := rfl
@[simp] theorem State.assertReset_past : (s.assertReset).past = s.pastAfterReset := rfl

/-! `State.releaseReset` -/

@[simp] theorem State.releaseReset_cfg : (s.releaseReset).cfg = s.cfg := rfl
@[simp] theorem State.releaseReset_ovf : (s.releaseReset).ovf = s.ovf := rfl
@[simp] theorem State.releaseReset_halted : (s.releaseReset).halted = s.halted := rfl
@[simp] theorem State.releaseReset_cause : (s.releaseReset).cause = s.cause := rfl
@[simp] theorem State.releaseReset_info : (s.releaseReset).info = s.info := rfl
@[simp] theorem State.releaseReset_req : (s.releaseReset).req = s.req := rfl
@[simp] theorem State.releaseReset_rsp : (s.releaseReset).rsp = s.rsp := rfl
@[simp] theorem State.releaseReset_rstN : (s.releaseReset).rstN = true := rfl
@[simp] theorem State.releaseReset_moves : (s.releaseReset).moves = s.moves := rfl
@[simp] theorem State.releaseReset_delivered : (s.releaseReset).delivered = s.delivered := rfl
@[simp] theorem State.releaseReset_accepted : (s.releaseReset).accepted = s.accepted := rfl
@[simp] theorem State.releaseReset_past : (s.releaseReset).past = s.past := rfl

/-! `State.raiseBadCtx` -/

@[simp] theorem State.raiseBadCtx_cfg (i : Instr) : (s.raiseBadCtx i).cfg = s.cfg := rfl
@[simp] theorem State.raiseBadCtx_ovf (i : Instr) : (s.raiseBadCtx i).ovf = s.ovf := rfl
@[simp] theorem State.raiseBadCtx_halted (i : Instr) : (s.raiseBadCtx i).halted = true := rfl
@[simp] theorem State.raiseBadCtx_cause (i : Instr) : (s.raiseBadCtx i).cause = .badCtx := rfl
@[simp] theorem State.raiseBadCtx_info (i : Instr) : (s.raiseBadCtx i).info = zext32 i.head := rfl
@[simp] theorem State.raiseBadCtx_req (i : Instr) : (s.raiseBadCtx i).req = s.req := rfl
@[simp] theorem State.raiseBadCtx_rsp (i : Instr) : (s.raiseBadCtx i).rsp = s.rsp := rfl
@[simp] theorem State.raiseBadCtx_rstN (i : Instr) : (s.raiseBadCtx i).rstN = s.rstN := rfl
@[simp] theorem State.raiseBadCtx_moves (i : Instr) : (s.raiseBadCtx i).moves = s.moves := rfl
@[simp] theorem State.raiseBadCtx_delivered (i : Instr) : (s.raiseBadCtx i).delivered = s.delivered := rfl
@[simp] theorem State.raiseBadCtx_accepted (i : Instr) : (s.raiseBadCtx i).accepted = s.accepted := rfl
@[simp] theorem State.raiseBadCtx_past (i : Instr) : (s.raiseBadCtx i).past = s.past := rfl

/-! `State.raiseIllegal` -/

@[simp] theorem State.raiseIllegal_cfg (i : Instr) : (s.raiseIllegal i).cfg = s.cfg := rfl
@[simp] theorem State.raiseIllegal_ovf (i : Instr) : (s.raiseIllegal i).ovf = s.ovf := rfl
@[simp] theorem State.raiseIllegal_halted (i : Instr) : (s.raiseIllegal i).halted = true := rfl
@[simp] theorem State.raiseIllegal_cause (i : Instr) : (s.raiseIllegal i).cause = .illegalOp := rfl
@[simp] theorem State.raiseIllegal_info (i : Instr) : (s.raiseIllegal i).info = zext32 i.head := rfl
@[simp] theorem State.raiseIllegal_req (i : Instr) : (s.raiseIllegal i).req = s.req := rfl
@[simp] theorem State.raiseIllegal_rsp (i : Instr) : (s.raiseIllegal i).rsp = s.rsp := rfl
@[simp] theorem State.raiseIllegal_rstN (i : Instr) : (s.raiseIllegal i).rstN = s.rstN := rfl
@[simp] theorem State.raiseIllegal_moves (i : Instr) : (s.raiseIllegal i).moves = s.moves := rfl
@[simp] theorem State.raiseIllegal_delivered (i : Instr) : (s.raiseIllegal i).delivered = s.delivered := rfl
@[simp] theorem State.raiseIllegal_accepted (i : Instr) : (s.raiseIllegal i).accepted = s.accepted := rfl
@[simp] theorem State.raiseIllegal_past (i : Instr) : (s.raiseIllegal i).past = s.past := rfl

/-! `State.updateFlag`: only the bank can change -/

@[simp] theorem State.updateFlag_cfg (l : FlagLoc) (e : Bool) : (s.updateFlag l e).cfg = s.cfg := by
  unfold State.updateFlag; split <;> rfl
@[simp] theorem State.updateFlag_halted (l : FlagLoc) (e : Bool) : (s.updateFlag l e).halted = s.halted := by
  unfold State.updateFlag; split <;> rfl
@[simp] theorem State.updateFlag_cause (l : FlagLoc) (e : Bool) : (s.updateFlag l e).cause = s.cause := by
  unfold State.updateFlag; split <;> rfl
@[simp] theorem State.updateFlag_info (l : FlagLoc) (e : Bool) : (s.updateFlag l e).info = s.info := by
  unfold State.updateFlag; split <;> rfl
@[simp] theorem State.updateFlag_req (l : FlagLoc) (e : Bool) : (s.updateFlag l e).req = s.req := by
  unfold State.updateFlag; split <;> rfl
@[simp] theorem State.updateFlag_rsp (l : FlagLoc) (e : Bool) : (s.updateFlag l e).rsp = s.rsp := by
  unfold State.updateFlag; split <;> rfl
@[simp] theorem State.updateFlag_rstN (l : FlagLoc) (e : Bool) : (s.updateFlag l e).rstN = s.rstN := by
  unfold State.updateFlag; split <;> rfl
@[simp] theorem State.updateFlag_moves (l : FlagLoc) (e : Bool) : (s.updateFlag l e).moves = s.moves := by
  unfold State.updateFlag; split <;> rfl
@[simp] theorem State.updateFlag_delivered (l : FlagLoc) (e : Bool) : (s.updateFlag l e).delivered = s.delivered := by
  unfold State.updateFlag; split <;> rfl
@[simp] theorem State.updateFlag_accepted (l : FlagLoc) (e : Bool) : (s.updateFlag l e).accepted = s.accepted := by
  unfold State.updateFlag; split <;> rfl
@[simp] theorem State.updateFlag_past (l : FlagLoc) (e : Bool) : (s.updateFlag l e).past = s.past := by
  unfold State.updateFlag; split <;> rfl
theorem State.updateFlag_ovf (l : FlagLoc) (e : Bool) :
    (s.updateFlag l e).ovf =
      match s.cfg.flagMode with
      | .shared => s.ovf.set l.ctx.toNat (s.flagAfter l e)
      | .explicit => s.ovf := by
  cases h : s.cfg.flagMode <;> simp [State.updateFlag, h]

/-! `State.answer` -/

@[simp] theorem State.answer_cfg (l : FlagLoc) (r : Reply) : (s.answer l r).cfg = s.cfg := by simp [State.answer]
@[simp] theorem State.answer_halted (l : FlagLoc) (r : Reply) : (s.answer l r).halted = s.halted := by simp [State.answer]
@[simp] theorem State.answer_cause (l : FlagLoc) (r : Reply) : (s.answer l r).cause = s.cause := by simp [State.answer]
@[simp] theorem State.answer_info (l : FlagLoc) (r : Reply) : (s.answer l r).info = s.info := by simp [State.answer]
@[simp] theorem State.answer_req (l : FlagLoc) (r : Reply) : (s.answer l r).req = s.req := by simp [State.answer]
@[simp] theorem State.answer_rstN (l : FlagLoc) (r : Reply) : (s.answer l r).rstN = s.rstN := by simp [State.answer]
@[simp] theorem State.answer_moves (l : FlagLoc) (r : Reply) : (s.answer l r).moves = s.moves := by simp [State.answer]
@[simp] theorem State.answer_delivered (l : FlagLoc) (r : Reply) : (s.answer l r).delivered = s.delivered := by simp [State.answer]
@[simp] theorem State.answer_accepted (l : FlagLoc) (r : Reply) : (s.answer l r).accepted = s.accepted := by simp [State.answer]
@[simp] theorem State.answer_past (l : FlagLoc) (r : Reply) : (s.answer l r).past = s.past := by simp [State.answer]
@[simp] theorem State.answer_rsp (l : FlagLoc) (r : Reply) :
    (s.answer l r).rsp = some (packRsp (s.flagAfter l r.event) r.event r.result) := rfl
@[simp] theorem State.answer_ovf (l : FlagLoc) (r : Reply) : (s.answer l r).ovf = (s.updateFlag l r.event).ovf := rfl

/-! `State.deliver` -/

@[simp] theorem State.deliver_cfg : s.deliver.cfg = s.cfg := by unfold State.deliver; split <;> rfl
@[simp] theorem State.deliver_ovf : s.deliver.ovf = s.ovf := by unfold State.deliver; split <;> rfl
@[simp] theorem State.deliver_halted : s.deliver.halted = s.halted := by unfold State.deliver; split <;> rfl
@[simp] theorem State.deliver_cause : s.deliver.cause = s.cause := by unfold State.deliver; split <;> rfl
@[simp] theorem State.deliver_info : s.deliver.info = s.info := by unfold State.deliver; split <;> rfl
@[simp] theorem State.deliver_req : s.deliver.req = s.req := by unfold State.deliver; split <;> rfl
@[simp] theorem State.deliver_rstN : s.deliver.rstN = s.rstN := by unfold State.deliver; split <;> rfl
@[simp] theorem State.deliver_accepted : s.deliver.accepted = s.accepted := by unfold State.deliver; split <;> rfl
@[simp] theorem State.deliver_past : s.deliver.past = s.past := by unfold State.deliver; split <;> rfl
@[simp] theorem State.deliver_moves : s.deliver.moves = s.moves := by unfold State.deliver; split <;> rfl
theorem State.deliver_of_offered (r : RspWord) (h : s.rspOffered = some r) :
    s.deliver = { s with rsp := none, delivered := s.delivered ++ [r] } := by
  simp [State.deliver, h]

/-! `State.playMove` never touches the parameters -/

@[simp] theorem State.playMove_cfg : s.playMove.cfg = s.cfg := by
  unfold State.playMove
  split
  · rfl
  · split <;> rfl
  · split
    · exact s.deliver_cfg
    · rfl
  · rfl
  · rfl

/-! `State.resetWith` -/

variable (c : Config)
@[simp] theorem State.resetWith_cfg : (State.resetWith c).cfg = c := rfl
@[simp] theorem State.resetWith_ovf : (State.resetWith c).ovf = resetBank c := rfl
@[simp] theorem State.resetWith_halted : (State.resetWith c).halted = false := rfl
@[simp] theorem State.resetWith_cause : (State.resetWith c).cause = .none := rfl
@[simp] theorem State.resetWith_info : (State.resetWith c).info = 0 := rfl
@[simp] theorem State.resetWith_req : (State.resetWith c).req = none := rfl
@[simp] theorem State.resetWith_rsp : (State.resetWith c).rsp = none := rfl
@[simp] theorem State.resetWith_rstN : (State.resetWith c).rstN = true := rfl
@[simp] theorem State.resetWith_moves : (State.resetWith c).moves = [] := rfl
@[simp] theorem State.resetWith_delivered : (State.resetWith c).delivered = [] := rfl
@[simp] theorem State.resetWith_accepted : (State.resetWith c).accepted = [] := rfl
@[simp] theorem State.resetWith_past : (State.resetWith c).past = [] := rfl

end Sys2Proof.Machine
end

