-- ==== Sys2Proof/Laws/Ops.lean ====
section
/-! SUPPORT. What each shared operation can do, said once: the frame of an arithmetic command, the response word, the flag bank,
the port and the requester's moves. -/
namespace Sys2Proof.Machine

/-! The response word (30_encoding.md R52) -/

section response
variable (f e : Bool) (r : Word32)

@[simp] theorem rspFlag_packRsp : rspFlag (packRsp f e r) = f := by
  unfold rspFlag packRsp
  have h1 : (BitVec.ofBool f ++ BitVec.ofBool e ++ r).getLsbD 33 = (BitVec.ofBool f ++ BitVec.ofBool e).getLsbD 1 := by
    rw [BitVec.getLsbD_append]; rfl
  rw [h1, BitVec.getLsbD_append]
  cases f <;> rfl

@[simp] theorem rspEvent_packRsp : rspEvent (packRsp f e r) = e := by
  unfold rspEvent packRsp
  have h1 : (BitVec.ofBool f ++ BitVec.ofBool e ++ r).getLsbD 32 = (BitVec.ofBool f ++ BitVec.ofBool e).getLsbD 0 := by
    rw [BitVec.getLsbD_append]; rfl
  rw [h1, BitVec.getLsbD_append]
  cases e <;> rfl

@[simp] theorem rspResult_packRsp : rspResult (packRsp f e r) = r := by
  unfold rspResult packRsp
  apply BitVec.eq_of_getLsbD_eq
  intro i hi
  rw [BitVec.getLsbD_extractLsb']
  have h1 : (BitVec.ofBool f ++ BitVec.ofBool e ++ r).getLsbD (0 + i) = r.getLsbD i := by
    rw [BitVec.getLsbD_append]; simp [hi]
  rw [h1]; simp [hi]

end response

/-! The flag bank (10_state.md R22, R23) -/

section bank
variable (s : State) (k j : BitVec 8) (v : Bool)

/-- Reading back a register that exists gives what was written. -/
theorem readOvf_writeOvf_same (h : k.toNat < s.ovf.length) : (s.writeOvf k v).readOvf k = v := by
  simp [State.readOvf, h]

/-- A write leaves every other register as it was. -/
theorem readOvf_writeOvf_other (h : j ≠ k) : (s.writeOvf k v).readOvf j = s.readOvf j := by
  have : k.toNat ≠ j.toNat := fun e => h (BitVec.eq_of_toNat_eq e.symm)
  simp [State.readOvf, List.getD, this]

@[simp] theorem writeOvf_length : (s.writeOvf k v).ovf.length = s.ovf.length := by simp

end bank

/-! The flag location (10_state.md R23, R24) -/

section flag
variable (s : State) (l : FlagLoc) (e : Bool)

theorem flagAfter_shared (h : s.cfg.flagMode = .shared) : s.flagAfter l e = (s.readOvf l.ctx || e) := by
  simp [State.flagAfter, State.flagBefore, h]

theorem flagAfter_explicit (h : s.cfg.flagMode = .explicit) : s.flagAfter l e = (l.ovfIn || e) := by
  simp [State.flagAfter, State.flagBefore, h]

theorem updateFlag_shared (h : s.cfg.flagMode = .shared) :
    s.updateFlag l e = s.writeOvf l.ctx (s.readOvf l.ctx || e) := by
  simp [State.updateFlag, h, flagAfter_shared]

theorem updateFlag_explicit (h : s.cfg.flagMode = .explicit) : s.updateFlag l e = s := by
  simp [State.updateFlag, h]

@[simp] theorem updateFlag_length : (s.updateFlag l e).ovf.length = s.ovf.length := by
  cases h : s.cfg.flagMode
  · simp [updateFlag_shared s l e h]
  · simp [updateFlag_explicit s l e h]

end flag

/-! The frame of a command (30_encoding.md R60 steps 2, 5, 6) -/

section frame
variable (i : Instr) (r : Reply) (s : State)

theorem badContext_eq_false_iff (l : FlagLoc) :
    s.badContext l = false ↔ (s.cfg.flagMode = .shared → l.ctx.toNat < s.cfg.nctx) := by
  cases h : s.cfg.flagMode <;> simp [State.badContext, FlagLoc.present, h]

theorem badContext_eq_true_iff (l : FlagLoc) :
    s.badContext l = true ↔ s.cfg.flagMode = .shared ∧ s.cfg.nctx ≤ l.ctx.toNat := by
  cases h : s.cfg.flagMode <;> simp [State.badContext, FlagLoc.present, h]

theorem runArith_of_present (h : s.badContext i.loc = false) : runArith i r s = .next (s.answer i.loc r) := by
  simp [runArith, h]

theorem runArith_of_absent (h : s.badContext i.loc = true) : runArith i r s = .next (s.raiseBadCtx i) := by
  simp [runArith, h]

/-- All an arithmetic command that cannot fault on its operands can do. -/
theorem runArith_cases :
    (s.badContext i.loc = false ∧ runArith i r s = .next (s.answer i.loc r)) ∨
      (s.badContext i.loc = true ∧ runArith i r s = .next (s.raiseBadCtx i)) := by
  cases h : s.badContext i.loc
  · exact .inl ⟨rfl, runArith_of_present i r s h⟩
  · exact .inr ⟨rfl, runArith_of_absent i r s h⟩

end frame

/-! The port (30_encoding.md R50) -/

section port
variable (s : State)

theorem reqReady_eq_true_iff : s.reqReady = true ↔ s.rstN = true ∧ s.halted = false ∧ s.rsp = none := by
  simp [State.reqReady, and_assoc]

theorem accepting_eq_some_iff (cw : CmdWord) :
    s.accepting = some cw ↔ s.rstN = true ∧ s.halted = false ∧ s.rsp = none ∧ s.req = some cw := by
  unfold State.accepting
  split
  · rename_i h; rw [reqReady_eq_true_iff] at h; simp [h]
  · rename_i h; rw [reqReady_eq_true_iff] at h
    constructor
    · intro hc; cases hc
    · rintro ⟨h1, h2, h3, _⟩; exact absurd ⟨h1, h2, h3⟩ h

theorem rspOffered_eq_some_iff (r : RspWord) :
    s.rspOffered = some r ↔ s.rstN = true ∧ s.halted = false ∧ s.rsp = some r := by
  cases h1 : s.rstN <;> cases h2 : s.halted <;> simp [State.rspOffered, h1, h2]

theorem resetNext_iff : s.resetNext = true ↔ ∃ ms, s.moves = .resetLow :: ms := by
  unfold State.resetNext
  split
  · rename_i ms h; simp [h]
  · rename_i h
    constructor
    · intro hc; cases hc
    · rintro ⟨ms, hm⟩; exact absurd hm (h ms)

/-- All a requester's move can do to the state. -/
theorem playMove_cases :
    s.playMove = s ∨
      (∃ cw ms, s.moves = .offer cw :: ms ∧ s.req = none ∧ s.playMove = { s with req := some cw, moves := ms }) ∨
      (∃ r ms, s.moves = .take :: ms ∧ s.rspOffered = some r ∧
        s.playMove = { s with rsp := none, delivered := s.delivered ++ [r], moves := ms }) ∨
      (∃ ms, s.moves = .resetLow :: ms ∧ s.playMove = { s.assertReset with moves := ms }) ∨
      (∃ ms, s.moves = .resetHigh :: ms ∧ s.playMove = { s.releaseReset with moves := ms }) := by
  unfold State.playMove
  split
  · exact .inl rfl
  · rename_i cw ms h
    cases hr : s.req with
    | none => exact .inr (.inl ⟨cw, ms, h, rfl, by simp⟩)
    | some x => exact .inl (by simp)
  · rename_i ms h
    cases ho : s.rspOffered with
    | none => exact .inl (by simp)
    | some r =>
      refine .inr (.inr (.inl ⟨r, ms, h, rfl, ?_⟩))
      simp [s.deliver_of_offered r ho]
  · rename_i ms h
    exact .inr (.inr (.inr (.inl ⟨ms, h, rfl⟩)))
  · rename_i ms h
    exact .inr (.inr (.inr (.inr ⟨ms, h, rfl⟩)))

end port

/-! The account of the runs (70_reset_and_hazards.md R188) -/

section runs
variable (s : State) (w : CmdWord) (ms : List Move)

@[simp] theorem stillToSend_nil : stillToSend [] = [] := rfl
@[simp] theorem stillToSend_offer : stillToSend (.offer w :: ms) = w :: stillToSend ms := rfl
@[simp] theorem stillToSend_take : stillToSend (.take :: ms) = stillToSend ms := rfl
@[simp] theorem stillToSend_resetLow : stillToSend (.resetLow :: ms) = [] := rfl
@[simp] theorem stillToSend_resetHigh : stillToSend (.resetHigh :: ms) = stillToSend ms := rfl

/-- When reset is pulled, of the run's own words only the one on the port is left unsent. -/
theorem runRecord_unsent_of_resetLow (h : s.moves = .resetLow :: ms) : s.runRecord.unsent = s.req.toList := by
  simp [h]

theorem pastAfterReset_of_high (h : s.rstN = true) : s.pastAfterReset = s.past ++ [s.runRecord] := by
  simp [State.pastAfterReset, h]

theorem pastAfterReset_of_low (h : s.rstN = false) : s.pastAfterReset = s.past := by
  simp [State.pastAfterReset, h]

end runs

/-! The step (30_encoding.md R60) -/

section step
variable (s t : State)

/-- All a step that answers a next state can do: an accepted command word, or the requester's move. -/
theorem step_next_cases (h : step s = .next t) :
    s.cfg.valid = true ∧ (s.halted = false ∨ s.resetNext = true) ∧
      ((∃ cw, s.accepting = some cw ∧ acceptCommand cw (s.consume cw) = .next t) ∨
        (s.accepting = none ∧ t = s.playMove)) := by
  unfold step at h
  split at h
  · cases h
  · rename_i hv
    split at h
    · cases h
    · rename_i hh
      refine ⟨by simpa using hv, ?_, ?_⟩
      · cases hs : s.halted
        · exact .inl rfl
        · exact .inr (by simpa [hs] using hh)
      · split at h
        · rename_i cw ha; exact .inl ⟨cw, ha, h⟩
        · rename_i ha; cases h; exact .inr ⟨ha, rfl⟩

theorem acceptCommand_of_decode (cw : CmdWord) (i : Instr) (h : decode cw = .ok i) :
    acceptCommand cw s = exec i s := by
  simp [acceptCommand, h]

theorem acceptCommand_of_reject (cw : CmdWord) (r : Reject) (h : decode cw = .error r) :
    acceptCommand cw s = .next (s.raiseFault .illegalOp (zext32 (CmdWord.head cw))) := by
  simp [acceptCommand, h]

end step

end Sys2Proof.Machine
end

