-- ==== Sys2Proof/Laws/Exec.lean ====
section
/-! SUPPORT. Everything `exec` can do, said once for the arithmetic commands and once for the flag-access commands, so that a proof
about every command splits into these cases and not into 26. -/
namespace Sys2Proof.Machine

/-- The reply of an arithmetic command under an error policy and a rounding distance; `none` where DIV_S meets a domain error under
ABORT (and for the flag-access commands, which are not arithmetic). -/
def arithReply (i : Instr) (ep : ErrPolicy) (rndSh : Nat) : Option Reply :=
  match i with
  | .saturate _ w => some (reply16 (saturate (s32 w)))
  | .add _ a b => some (reply16 (add16 (s16 a) (s16 b)))
  | .sub _ a b => some (reply16 (sub16 (s16 a) (s16 b)))
  | .negate _ a => some (reply16 (negate16 (s16 a)))
  | .lAdd _ a b => some (reply32 (lAdd (s32 a) (s32 b)))
  | .lSub _ a b => some (reply32 (lSub (s32 a) (s32 b)))
  | .lNegate _ a => some (reply32 (lNegate (s32 a)))
  | .mult _ a b => some (reply16 (mult16 (s16 a) (s16 b)))
  | .multR _ a b => some (reply16 (multR16 (s16 a) (s16 b)))
  | .lMult _ a b => some (reply32 (lMult (s16 a) (s16 b)))
  | .lMac _ acc x y => some (reply32 (lMac (s32 acc) (s16 x) (s16 y)))
  | .lMsu _ acc x y => some (reply32 (lMsu (s32 acc) (s16 x) (s16 y)))
  | .lMacNs _ acc x y => some (reply32 (lMacNs (s32 acc) (s16 x) (s16 y)))
  | .lMsuNs _ acc x y => some (reply32 (lMsuNs (s32 acc) (s16 x) (s16 y)))
  | .macR _ acc x y => some (reply16 (macR rndSh (s32 acc) (s16 x) (s16 y)))
  | .msuR _ acc x y => some (reply16 (msuR rndSh (s32 acc) (s16 x) (s16 y)))
  | .shl _ a n => some (reply16 (shl16 (s16 a) (s16 n)))
  | .shr _ a n => some (reply16 (shr16 (s16 a) (s16 n)))
  | .lShl _ a n => some (reply32 (shl32 (s32 a) (s16 n)))
  | .lShr _ a n => some (reply32 (shr32 (s32 a) (s16 n)))
  | .lShrR _ a n => some (reply32 (shrR32 (s32 a) (s16 n)))
  | .normS _ a => some (reply16 (normS16 (s16 a)))
  | .normL _ a => some (reply16 (normL32 (s32 a)))
  | .divS _ num den => (divS16 ep (s16 num) (s16 den)).map reply16
  | .rdovf _ => none
  | .wrovf _ _ => none

/-- What INFO records of a division that faults: the two operands (60_exceptions.md R161). -/
def divInfo : Instr → BitVec 32
  | .divS _ num den => den ++ num
  | _ => 0

/-- Every arithmetic command is `runArith` of its reply, or the division fault after the context test. -/
theorem exec_eq_arithReply (i : Instr) (s : State) (h : i.isFlagAccess = false) :
    exec i s = match arithReply i s.cfg.errPolicy s.cfg.rndSh with
      | some r => runArith i r s
      | none => if s.badContext i.loc then .next (s.raiseBadCtx i)
          else .next (s.raiseFault .divDomain (divInfo i)) := by
  cases i
  case divS l a b =>
    show execDivS _ _ _ _ = _
    unfold execDivS arithReply
    simp only
    cases divS16 s.cfg.errPolicy (s16 a) (s16 b) <;> rfl
  case rdovf => cases h
  case wrovf => cases h
  all_goals rfl

/-- All an arithmetic command can do. -/
theorem exec_arith_cases (i : Instr) (s : State) (h : i.isFlagAccess = false) :
    (s.badContext i.loc = true ∧ exec i s = .next (s.raiseBadCtx i)) ∨
    (s.badContext i.loc = false ∧ ∃ r, arithReply i s.cfg.errPolicy s.cfg.rndSh = some r ∧
      exec i s = .next (s.answer i.loc r)) ∨
    (s.badContext i.loc = false ∧ arithReply i s.cfg.errPolicy s.cfg.rndSh = none ∧
      exec i s = .next (s.raiseFault .divDomain (divInfo i))) := by
  rw [exec_eq_arithReply i s h]
  cases hb : s.badContext i.loc <;> cases hg : arithReply i s.cfg.errPolicy s.cfg.rndSh <;> simp [hb, runArith]

/-- All a flag-access command can do. -/
theorem exec_flagAccess_cases (i : Instr) (s : State) (h : i.isFlagAccess = true) :
    (s.cfg.flagMode = .explicit ∧ exec i s = .next (s.raiseIllegal i)) ∨
    (s.cfg.flagMode = .shared ∧ s.badContext i.loc = true ∧ exec i s = .next (s.raiseBadCtx i)) ∨
    (s.cfg.flagMode = .shared ∧ s.badContext i.loc = false ∧
      ((∃ l, i = .rdovf l ∧ exec i s = .next (s.respond (bit32 (s.readOvf l.ctx)) false (s.readOvf l.ctx))) ∨
       (∃ l v, i = .wrovf l v ∧
          exec i s = .next ((s.writeOvf l.ctx v).respond (bit32 (s.readOvf l.ctx)) false v)))) := by
  cases i <;> simp [Instr.isFlagAccess] at h
  case rdovf l =>
    cases hm : s.cfg.flagMode
    · right; cases hb : s.badContext l
      · right; exact ⟨rfl, hb, .inl ⟨l, rfl, by simp [exec, execRdovf, hm, hb]⟩⟩
      · left; exact ⟨rfl, hb, by simp [exec, execRdovf, hm, hb]⟩
    · left; exact ⟨rfl, by simp [exec, execRdovf, hm]⟩
  case wrovf l v =>
    cases hm : s.cfg.flagMode
    · right; cases hb : s.badContext l
      · right; exact ⟨rfl, hb, .inr ⟨l, v, rfl, by simp [exec, execWrovf, hm, hb]⟩⟩
      · left; exact ⟨rfl, hb, by simp [exec, execWrovf, hm, hb]⟩
    · left; exact ⟨rfl, by simp [exec, execWrovf, hm]⟩

end Sys2Proof.Machine
end

