-- ==== Sys2Proof/Laws/Normalization.lean ====
section
/-! SUPPORT. The doubling loop of the normalisation commands ends by its test, never by its bound (44_normalization.md R130, R131). -/
namespace Sys2Proof.Machine

/-- With enough fuel the loop counts the doublings that bring `m` into `[T, 2T)`. -/
theorem normLoop_spec (T : Int) : ∀ (fuel : Nat) (m k : Int), 1 ≤ m → m < 2 * T → T ≤ m * pow2 fuel →
    ∃ j : Nat, normLoop T fuel m k = k + j ∧ T ≤ m * pow2 j ∧ m * pow2 j < 2 * T ∧ j ≤ fuel := by
  intro fuel
  induction fuel with
  | zero =>
    intro m k h1 h2 h3
    refine ⟨0, by simp [normLoop], by simpa using h3, ?_, by omega⟩
    simpa [pow2] using h2
  | succ f ih =>
    intro m k h1 h2 h3
    rw [pow2_succ] at h3
    by_cases h : m < T
    · obtain ⟨j, e, l, u, b⟩ := ih (2 * m) (k + 1) (by omega) (by omega) (by linarith)
      refine ⟨j + 1, ?_, ?_, ?_, by omega⟩
      · rw [normLoop, if_pos h, e]; push_cast; ring
      · rw [pow2_succ]; linarith
      · rw [pow2_succ]; linarith
    · refine ⟨0, by simp [normLoop, h], ?_, ?_, by omega⟩
      · simp [pow2]; omega
      · simpa [pow2] using h2

end Sys2Proof.Machine
end

