-- ==== Sys2Proof/Laws/PerInstr.lean ====
section
/-! SUPPORT. Every command's encoding lies in its own row of the operation-code table: under the row's mask it is the row's match
(30_encoding.md R55). One lemma a constructor. -/
namespace Sys2Proof.Laws.TableRow

/-- The mask of every row: bits 95:90 and bit 88 (R55). -/
def mask : CmdWord := 0xFD0000000000000000000000#96

/-- The match of each row, as the table prints it (R55). -/
def rowMatch : Instr → CmdWord
  | .saturate _ _ => 0x040000000000000000000000#96
  | .add _ _ _ => 0x080000000000000000000000#96
  | .sub _ _ _ => 0x0C0000000000000000000000#96
  | .negate _ _ => 0x100000000000000000000000#96
  | .lAdd _ _ _ => 0x140000000000000000000000#96
  | .lSub _ _ _ => 0x180000000000000000000000#96
  | .lNegate _ _ => 0x1C0000000000000000000000#96
  | .mult _ _ _ => 0x200000000000000000000000#96
  | .multR _ _ _ => 0x240000000000000000000000#96
  | .lMult _ _ _ => 0x280000000000000000000000#96
  | .lMac _ _ _ _ => 0x2C0000000000000000000000#96
  | .lMsu _ _ _ _ => 0x300000000000000000000000#96
  | .lMacNs _ _ _ _ => 0x340000000000000000000000#96
  | .lMsuNs _ _ _ _ => 0x380000000000000000000000#96
  | .macR _ _ _ _ => 0x3C0000000000000000000000#96
  | .msuR _ _ _ _ => 0x400000000000000000000000#96
  | .shl _ _ _ => 0x440000000000000000000000#96
  | .shr _ _ _ => 0x480000000000000000000000#96
  | .lShl _ _ _ => 0x4C0000000000000000000000#96
  | .lShr _ _ _ => 0x500000000000000000000000#96
  | .lShrR _ _ _ => 0x540000000000000000000000#96
  | .normS _ _ => 0x580000000000000000000000#96
  | .normL _ _ => 0x5C0000000000000000000000#96
  | .divS _ _ _ => 0x600000000000000000000000#96
  | .rdovf _ => 0x640000000000000000000000#96
  | .wrovf _ _ => 0x680000000000000000000000#96

/-- The row's match is what the mask leaves of the command's word. -/
def Statement (i : Instr) : Prop := encode i &&& mask = rowMatch i

/-- A word whose reserved bit is 0 leaves its operation code, 90 places up, under the mask. -/
theorem masked (w : CmdWord) (h : CmdWord.rsv0 w = false) :
    w &&& mask = (CmdWord.op w).setWidth 96 <<< 90 := by
  have hm : mask = (0xFD#8).setWidth 96 <<< 88 := by decide
  rw [hm]
  apply BitVec.eq_of_getLsbD_eq
  intro i hi
  rcases Nat.lt_or_ge i 88 with lo | h88
  · rw [BitVec.getLsbD_and, BitVec.getLsbD_shiftLeft, BitVec.getLsbD_shiftLeft]
    simp [lo, show i < 90 by omega]
  · obtain ⟨k, rfl⟩ : ∃ k, i = 88 + k := ⟨i - 88, by omega⟩
    have hk : k < 8 := by omega
    unfold CmdWord.rsv0 at h
    interval_cases k <;> simp_all [CmdWord.op]

variable (i : Instr)

/-- The encoder's words under the mask. -/
theorem encode_masked : encode i &&& mask = i.opcode.setWidth 96 <<< 90 := by
  rw [masked _ (encode_rsv0 i), encode_op]

theorem saturate (loc : FlagLoc) (wide : Word32) : Statement (.saturate loc wide) :=
  (encode_masked _).trans (show (0x01#6).setWidth 96 <<< 90 = 0x040000000000000000000000#96 by decide)
theorem add (loc : FlagLoc) (a b : Word16) : Statement (.add loc a b) :=
  (encode_masked _).trans (show (0x02#6).setWidth 96 <<< 90 = 0x080000000000000000000000#96 by decide)
theorem sub (loc : FlagLoc) (a b : Word16) : Statement (.sub loc a b) :=
  (encode_masked _).trans (show (0x03#6).setWidth 96 <<< 90 = 0x0C0000000000000000000000#96 by decide)
theorem negate (loc : FlagLoc) (a : Word16) : Statement (.negate loc a) :=
  (encode_masked _).trans (show (0x04#6).setWidth 96 <<< 90 = 0x100000000000000000000000#96 by decide)
theorem lAdd (loc : FlagLoc) (a b : Word32) : Statement (.lAdd loc a b) :=
  (encode_masked _).trans (show (0x05#6).setWidth 96 <<< 90 = 0x140000000000000000000000#96 by decide)
theorem lSub (loc : FlagLoc) (a b : Word32) : Statement (.lSub loc a b) :=
  (encode_masked _).trans (show (0x06#6).setWidth 96 <<< 90 = 0x180000000000000000000000#96 by decide)
theorem lNegate (loc : FlagLoc) (a : Word32) : Statement (.lNegate loc a) :=
  (encode_masked _).trans (show (0x07#6).setWidth 96 <<< 90 = 0x1C0000000000000000000000#96 by decide)
theorem mult (loc : FlagLoc) (a b : Word16) : Statement (.mult loc a b) :=
  (encode_masked _).trans (show (0x08#6).setWidth 96 <<< 90 = 0x200000000000000000000000#96 by decide)
theorem multR (loc : FlagLoc) (a b : Word16) : Statement (.multR loc a b) :=
  (encode_masked _).trans (show (0x09#6).setWidth 96 <<< 90 = 0x240000000000000000000000#96 by decide)
theorem lMult (loc : FlagLoc) (a b : Word16) : Statement (.lMult loc a b) :=
  (encode_masked _).trans (show (0x0A#6).setWidth 96 <<< 90 = 0x280000000000000000000000#96 by decide)
theorem lMac (loc : FlagLoc) (acc : Word32) (x y : Word16) : Statement (.lMac loc acc x y) :=
  (encode_masked _).trans (show (0x0B#6).setWidth 96 <<< 90 = 0x2C0000000000000000000000#96 by decide)
theorem lMsu (loc : FlagLoc) (acc : Word32) (x y : Word16) : Statement (.lMsu loc acc x y) :=
  (encode_masked _).trans (show (0x0C#6).setWidth 96 <<< 90 = 0x300000000000000000000000#96 by decide)
theorem lMacNs (loc : FlagLoc) (acc : Word32) (x y : Word16) : Statement (.lMacNs loc acc x y) :=
  (encode_masked _).trans (show (0x0D#6).setWidth 96 <<< 90 = 0x340000000000000000000000#96 by decide)
theorem lMsuNs (loc : FlagLoc) (acc : Word32) (x y : Word16) : Statement (.lMsuNs loc acc x y) :=
  (encode_masked _).trans (show (0x0E#6).setWidth 96 <<< 90 = 0x380000000000000000000000#96 by decide)
theorem macR (loc : FlagLoc) (acc : Word32) (x y : Word16) : Statement (.macR loc acc x y) :=
  (encode_masked _).trans (show (0x0F#6).setWidth 96 <<< 90 = 0x3C0000000000000000000000#96 by decide)
theorem msuR (loc : FlagLoc) (acc : Word32) (x y : Word16) : Statement (.msuR loc acc x y) :=
  (encode_masked _).trans (show (0x10#6).setWidth 96 <<< 90 = 0x400000000000000000000000#96 by decide)
theorem shl (loc : FlagLoc) (a n : Word16) : Statement (.shl loc a n) :=
  (encode_masked _).trans (show (0x11#6).setWidth 96 <<< 90 = 0x440000000000000000000000#96 by decide)
theorem shr (loc : FlagLoc) (a n : Word16) : Statement (.shr loc a n) :=
  (encode_masked _).trans (show (0x12#6).setWidth 96 <<< 90 = 0x480000000000000000000000#96 by decide)
theorem lShl (loc : FlagLoc) (a : Word32) (n : Word16) : Statement (.lShl loc a n) :=
  (encode_masked _).trans (show (0x13#6).setWidth 96 <<< 90 = 0x4C0000000000000000000000#96 by decide)
theorem lShr (loc : FlagLoc) (a : Word32) (n : Word16) : Statement (.lShr loc a n) :=
  (encode_masked _).trans (show (0x14#6).setWidth 96 <<< 90 = 0x500000000000000000000000#96 by decide)
theorem lShrR (loc : FlagLoc) (a : Word32) (n : Word16) : Statement (.lShrR loc a n) :=
  (encode_masked _).trans (show (0x15#6).setWidth 96 <<< 90 = 0x540000000000000000000000#96 by decide)
theorem normS (loc : FlagLoc) (a : Word16) : Statement (.normS loc a) :=
  (encode_masked _).trans (show (0x16#6).setWidth 96 <<< 90 = 0x580000000000000000000000#96 by decide)
theorem normL (loc : FlagLoc) (a : Word32) : Statement (.normL loc a) :=
  (encode_masked _).trans (show (0x17#6).setWidth 96 <<< 90 = 0x5C0000000000000000000000#96 by decide)
theorem divS (loc : FlagLoc) (num den : Word16) : Statement (.divS loc num den) :=
  (encode_masked _).trans (show (0x18#6).setWidth 96 <<< 90 = 0x600000000000000000000000#96 by decide)
theorem rdovf (loc : FlagLoc) : Statement (.rdovf loc) :=
  (encode_masked _).trans (show (0x19#6).setWidth 96 <<< 90 = 0x640000000000000000000000#96 by decide)
theorem wrovf (loc : FlagLoc) (v : Bool) : Statement (.wrovf loc v) :=
  (encode_masked _).trans (show (0x1A#6).setWidth 96 <<< 90 = 0x680000000000000000000000#96 by decide)

end Sys2Proof.Laws.TableRow
end

