-- ==== Sys2Proof/Laws/Shift.lean ====
section
/-! SUPPORT. The shift helpers in closed form, for every distance (43_shift.md R110, R111, R115, R116), and with them the shifts
themselves, for every count (R121). -/
namespace Sys2Proof.Machine

theorem shrPos_eq (a : Int) (n : Nat) (ha : min16 ≤ a ∧ a ≤ max16) :
    shrPos a n = (floorShift a n, false) := by
  unfold shrPos
  split
  · have := pow2_mono 15 n (by omega)
    have h15 : pow2 15 = 32768 := by decide
    unfold min16 max16 at ha
    rw [floorShift_small a n (by omega) (by omega)]
  · split
    · rw [bitNot_floorShift]
    · rfl

theorem lShrPos_eq (a : Int) (n : Nat) (ha : min32 ≤ a ∧ a ≤ max32) :
    lShrPos a n = (floorShift a n, false) := by
  unfold lShrPos
  split
  · have := pow2_mono 31 n (by omega)
    have h31 : pow2 31 = 2147483648 := by decide
    unfold min32 max32 at ha
    rw [floorShift_small a n (by omega) (by omega)]
  · split
    · rw [bitNot_floorShift]
    · rfl

theorem shlPos_eq (a : Int) (n : Nat) :
    shlPos a n = (clamp16 (a * pow2 n), !inRange16 (a * pow2 n)) := by
  have hpos := shifted_pos a n
  unfold shlPos
  cases hr : inRange16 (a * pow2 n)
  · simp only [Bool.not_false, Bool.or_true, if_true]
    by_cases ha : a > 0
    · rw [if_pos ha, clamp16_of_above]
      rw [inRange16_false_iff] at hr; have := hpos.2 ha; unfold min16 max16 at *; omega
    · rw [if_neg ha, clamp16_of_below]
      rw [inRange16_false_iff] at hr; have := mt hpos.1 ha; unfold min16 max16 at *; omega
  · have hs : (decide (n > 15) && a != 0) = false := by
      by_contra hc
      simp at hc
      rw [inRange16_iff] at hr
      unfold min16 max16 at hr
      have h16 : pow2 16 = 65536 := by decide
      rcases shifted_large a 16 n (by omega) hc.2 with h | h <;> omega
    simp [hs, clamp16_of_inRange _ hr]

theorem lShlPos_eq (a : Int) (n : Nat) :
    lShlPos a n = (clamp32 (a * pow2 n), !inRange32 (a * pow2 n)) := by
  have hpos := shifted_pos a n
  unfold lShlPos
  cases hr : inRange32 (a * pow2 n)
  · simp only [Bool.not_false, Bool.or_true, if_true]
    by_cases ha : a > 0
    · rw [if_pos ha, clamp32_of_above]
      rw [inRange32_false_iff] at hr; have := hpos.2 ha; unfold min32 max32 at *; omega
    · rw [if_neg ha, clamp32_of_below]
      rw [inRange32_false_iff] at hr; have := mt hpos.1 ha; unfold min32 max32 at *; omega
  · have hs : (decide (n > 31) && a != 0) = false := by
      by_contra hc
      simp at hc
      rw [inRange32_iff] at hr
      unfold min32 max32 at hr
      have h32 : pow2 32 = 4294967296 := by decide
      rcases shifted_large a 32 n (by omega) hc.2 with h | h <;> omega
    simp [hs, clamp32_of_inRange _ hr]

/-! The closed forms of R121: one lemma a shift, for every operand -/

/-- A clamp at 16 bits changes the value exactly when the value is out of range. -/
theorem clamp16_ne_iff (x : Int) : clamp16 x ≠ x ↔ inRange16 x = false := by
  rw [inRange16_false_iff]; unfold clamp16 min16 max16; omega

/-- A clamp at 32 bits changes the value exactly when the value is out of range. -/
theorem clamp32_ne_iff (x : Int) : clamp32 x ≠ x ↔ inRange32 x = false := by
  rw [inRange32_false_iff]; unfold clamp32 min32 max32; omega

theorem shl16_closed_form (a n : Int) (ha : min16 ≤ a ∧ a ≤ max16) :
    shl16 a n =
      if n < 0 then (floorShift a (-n).toNat, false)
      else (clamp16 (a * pow2 n.toNat), decide (clamp16 (a * pow2 n.toNat) ≠ a * pow2 n.toNat)) := by
  simp [shl16, shrPos_eq a _ ha, shlPos_eq, clamp16_ne_iff]

theorem shr16_closed_form (a n : Int) (ha : min16 ≤ a ∧ a ≤ max16) :
    shr16 a n =
      if n < 0 then (clamp16 (a * pow2 (-n).toNat), decide (clamp16 (a * pow2 (-n).toNat) ≠ a * pow2 (-n).toNat))
      else (floorShift a n.toNat, false) := by
  simp [shr16, shrPos_eq a _ ha, shlPos_eq, clamp16_ne_iff]

theorem shl32_closed_form (a n : Int) (ha : min32 ≤ a ∧ a ≤ max32) :
    shl32 a n =
      if n < 0 then (floorShift a (-n).toNat, false)
      else (clamp32 (a * pow2 n.toNat), decide (clamp32 (a * pow2 n.toNat) ≠ a * pow2 n.toNat)) := by
  simp [shl32, lShrPos_eq a _ ha, lShlPos_eq, clamp32_ne_iff]

theorem shr32_closed_form (a n : Int) (ha : min32 ≤ a ∧ a ≤ max32) :
    shr32 a n =
      if n < 0 then (clamp32 (a * pow2 (-n).toNat), decide (clamp32 (a * pow2 (-n).toNat) ≠ a * pow2 (-n).toNat))
      else (floorShift a n.toNat, false) := by
  simp [shr32, lShrPos_eq a _ ha, lShlPos_eq, clamp32_ne_iff]

/-- `floor(a / 2^n + 1/2)`, written over the common denominator `2^(n+1)`, and no event. -/
theorem shrR32_closed_form (a n : Int) (hn : 0 < n) :
    shrR32 a n = (floorShift (2 * a + pow2 n.toNat) (n.toNat + 1), false) := by
  obtain ⟨k, hk⟩ : ∃ k, n.toNat = k + 1 := ⟨n.toNat - 1, by omega⟩
  have hf : 2 * a + pow2 (k + 1) = 2 * (a + pow2 k) := by rw [pow2_succ]; omega
  rw [shrR32, if_neg (by omega), hk, hf]
  simp [floorShift, pow2_succ (k + 1), Int.mul_ediv_mul_of_pos]

/-- The rounded right shift always fits a Word32 (R119). -/
theorem shrR_range (a : Int) (n : Nat) (ha : min32 ≤ a ∧ a ≤ max32) (hn : 1 ≤ n) :
    -1073741824 ≤ floorShift (a + pow2 (n - 1)) n ∧ floorShift (a + pow2 (n - 1)) n ≤ 1073741824 := by
  obtain ⟨k, rfl⟩ : ∃ k, n = k + 1 := ⟨n - 1, by omega⟩
  have hp := pow2_pos k
  have hs := pow2_succ k
  unfold min32 max32 at ha
  simp only [Nat.add_sub_cancel]
  unfold floorShift
  rw [hs]
  constructor
  · apply Int.le_ediv_of_mul_le (by omega); nlinarith
  · apply Int.ediv_le_of_le_mul (by omega); nlinarith

theorem floorShift_range (a : Int) (n : Nat) (lo hi : Int) (h1 : lo ≤ a) (h2 : a ≤ hi) (hl : lo ≤ 0) (hh : 0 ≤ hi) :
    lo ≤ floorShift a n ∧ floorShift a n ≤ hi := by
  have hp := pow2_pos n
  unfold floorShift
  constructor
  · apply Int.le_ediv_of_mul_le hp; nlinarith
  · apply Int.ediv_le_of_le_mul hp; nlinarith

end Sys2Proof.Machine
end

