-- ==== Sys2Proof/Tests/Slice0.lean ====
section
/-! SUPPORT. Our own tests. The command words and the answers are those that spec/ prints: the Example line of each command's rule
with the flag 0 before, then one of the rule's corner cases. After them, one witness for the hypotheses of each statement. -/
namespace Sys2Proof.Tests
open Sys2Proof.Machine Sys2Proof.Spec

/-! The small states of the tests -/

/-- Context 0, `ovf_in = 0`. -/
def loc0 : FlagLoc := { ovfIn := false, ctx := 0 }
/-- The last context of `shared4`. -/
def loc3 : FlagLoc := { ovfIn := false, ctx := 3 }
/-- The first context that `shared4` has not. -/
def loc4 : FlagLoc := { ovfIn := false, ctx := 4 }
/-- A location of an EXPLICIT block: the flag comes in as 1, the context is any. -/
def locE : FlagLoc := { ovfIn := true, ctx := 255 }

/-- Four contexts, two of their flags set. -/
def shared4 : State :=
  { State.resetWith { Config.default with nctx := 4 } with ovf := [false, true, false, true] }
/-- An EXPLICIT block. -/
def explicit0 : State := State.resetWith { Config.default with flagMode := .explicit }
/-- A word is offered on the port. -/
def offering (s : State) (w : CmdWord) : State := { s with req := some w }
/-- A block halted by its one accepted command, DIV_S 1, 0. -/
def halted0 : State :=
  { latched State.reset .divDomain 0x00000001#32 with accepted := [0x600000000001000000000000#96] }
/-- What a step answers next, where it does. -/
def after (s : State) : State :=
  match step s with
  | .next t => t
  | _ => s
/-- What a command answers next, where it does. -/
def result (i : Instr) (s : State) : State :=
  match exec i s with
  | .next t => t
  | _ => s
/-- The outcome is a next state. -/
def isNext : Host.Outcome State Fault Refusal → Bool
  | .next _ => true
  | _ => false
theorem next_after {s : State} (h : isNext (step s) = true) : step s = .next (after s) := by
  unfold after
  revert h
  cases step s <;> simp [isNext]
theorem next_result {i : Instr} {s : State} (h : isNext (exec i s) = true) : exec i s = .next (result i s) := by
  unfold result
  revert h
  cases exec i s <;> simp [isNext]
/-- The response of one step of a fresh block to a word. -/
def answerTo (c : Config) (w : CmdWord) : Option RspWord := (after (offering (State.resetWith c) w)).rsp
/-- The fault latch after one step. -/
def latchAfter (s : State) : Bool × Cause × BitVec 32 := ((after s).halted, (after s).cause, (after s).info)

/-! WellFormed refuses -/

theorem test_wf_ok : (Instr.rdovf loc3).wellFormed shared4.cfg = true := by decide
theorem test_wf_flag_access_in_explicit : (Instr.rdovf loc0).wellFormed explicit0.cfg = false ∧
    (Instr.wrovf loc0 true).wellFormed explicit0.cfg = false := by decide
theorem test_wf_context_absent : (Instr.normS loc4 1).wellFormed shared4.cfg = false := by decide
theorem test_wf_context_ignored_in_explicit : (Instr.normS locE 1).wellFormed explicit0.cfg = true := by decide
theorem test_config_nctx_zero : Config.valid { Config.default with nctx := 0 } = false := by decide
theorem test_config_nctx_257 : Config.valid { Config.default with nctx := 257 } = false := by decide
theorem test_config_rndSh_14 : Config.valid { Config.default with rndSh := 14 } = false := by decide
theorem test_decode_reserved : decode 0#96 = .error .reservedOp ∧
    decode 0x6C0000000000000000000000#96 = .error .reservedOp ∧
    decode 0x610000000001000000000000#96 = .error .reservedBit := by decide

/-! Each command: its word, its example, a corner case -/

theorem test_decode_saturate : decode 0x040000012345000000000000#96 = .ok (.saturate loc0 0x12345) := by decide
theorem test_saturate_example : answerTo Config.default 0x040000012345000000000000#96 = some 0x300007FFF#34 := by decide
theorem test_saturate_corner :
    answerTo Config.default (encode (.saturate loc0 0x00010005)) = some 0x300007FFF#34 := by decide
theorem test_decode_add : decode 0x080000007FFF000000010000#96 = .ok (.add loc0 32767 1) := by decide
theorem test_add_example : answerTo Config.default 0x080000007FFF000000010000#96 = some 0x300007FFF#34 := by decide
theorem test_add_corner :
    answerTo Config.default (encode (.add loc0 32767 0x8000)) = some 0x0FFFFFFFF#34 := by decide
theorem test_decode_sub : decode 0x0C00FFFF8000000000010000#96 = .ok (.sub loc0 0x8000 1) := by decide
theorem test_sub_example : answerTo Config.default 0x0C00FFFF8000000000010000#96 = some 0x3FFFF8000#34 := by decide
theorem test_sub_corner :
    answerTo Config.default (encode (.sub loc0 0 0x8000)) = some 0x300007FFF#34 := by decide
theorem test_decode_negate : decode 0x1000FFFF8000000000000000#96 = .ok (.negate loc0 0x8000) := by decide
theorem test_negate_example : answerTo Config.default 0x1000FFFF8000000000000000#96 = some 0x300007FFF#34 := by decide
theorem test_negate_corner :
    answerTo Config.default (encode (.negate loc0 0x8001)) = some 0x000007FFF#34 := by decide
theorem test_decode_lAdd : decode 0x14007FFFFFFF000000010000#96 = .ok (.lAdd loc0 0x7FFFFFFF 1) := by decide
theorem test_lAdd_example : answerTo Config.default 0x14007FFFFFFF000000010000#96 = some 0x37FFFFFFF#34 := by decide
theorem test_lAdd_corner :
    answerTo Config.default (encode (.lAdd loc0 0x80000000 0x80000000)) = some 0x380000000#34 := by decide
theorem test_decode_lSub : decode 0x180080000000000000010000#96 = .ok (.lSub loc0 0x80000000 1) := by decide
theorem test_lSub_example : answerTo Config.default 0x180080000000000000010000#96 = some 0x380000000#34 := by decide
theorem test_lSub_corner :
    answerTo Config.default (encode (.lSub loc0 0 0x80000000)) = some 0x37FFFFFFF#34 := by decide
theorem test_decode_lNegate : decode 0x1C0080000000000000000000#96 = .ok (.lNegate loc0 0x80000000) := by decide
theorem test_lNegate_example : answerTo Config.default 0x1C0080000000000000000000#96 = some 0x37FFFFFFF#34 := by decide
theorem test_lNegate_corner :
    answerTo Config.default (encode (.lNegate loc0 0x80000001)) = some 0x07FFFFFFF#34 := by decide
theorem test_decode_mult : decode 0x200000004000000040000000#96 = .ok (.mult loc0 16384 16384) := by decide
theorem test_mult_example : answerTo Config.default 0x200000004000000040000000#96 = some 0x000002000#34 := by decide
theorem test_mult_corner :
    answerTo Config.default (encode (.mult loc0 0xFFFF 1)) = some 0x0FFFFFFFF#34 := by decide
theorem test_decode_multR : decode 0x240000004000000040000000#96 = .ok (.multR loc0 16384 16384) := by decide
theorem test_multR_example : answerTo Config.default 0x240000004000000040000000#96 = some 0x000002000#34 := by decide
theorem test_multR_corner :
    answerTo Config.default (encode (.multR loc0 0xFFFD 16384)) = some 0x0FFFFFFFF#34 := by decide
theorem test_decode_lMult : decode 0x280000004000000040000000#96 = .ok (.lMult loc0 16384 16384) := by decide
theorem test_lMult_example : answerTo Config.default 0x280000004000000040000000#96 = some 0x020000000#34 := by decide
theorem test_lMult_corner :
    answerTo Config.default (encode (.lMult loc0 0x8000 0x8000)) = some 0x37FFFFFFF#34 := by decide
theorem test_decode_lMac : decode 0x2C00000003E8000040004000#96 = .ok (.lMac loc0 1000 16384 16384) := by decide
theorem test_lMac_example : answerTo Config.default 0x2C00000003E8000040004000#96 = some 0x0200003E8#34 := by decide
theorem test_lMac_corner :
    answerTo Config.default (encode (.lMac loc0 0xFFFFFFFF 0x8000 0x8000)) = some 0x37FFFFFFE#34 := by decide
theorem test_decode_lMsu : decode 0x3000000003E8000040004000#96 = .ok (.lMsu loc0 1000 16384 16384) := by decide
theorem test_lMsu_example : answerTo Config.default 0x3000000003E8000040004000#96 = some 0x0E00003E8#34 := by decide
theorem test_lMsu_corner :
    answerTo Config.default (encode (.lMsu loc0 0x7FFFFFFF 0x8000 0x8000)) = some 0x300000000#34 := by decide
theorem test_decode_lMacNs : decode 0x34007FFFFFFF000000010001#96 = .ok (.lMacNs loc0 0x7FFFFFFF 1 1) := by decide
theorem test_lMacNs_example : answerTo Config.default 0x34007FFFFFFF000000010001#96 = some 0x080000001#34 := by decide
theorem test_lMacNs_corner :
    answerTo Config.default (encode (.lMacNs loc0 1 0x8000 0x8000)) = some 0x380000000#34 := by decide
theorem test_decode_lMsuNs : decode 0x380080000000000000010001#96 = .ok (.lMsuNs loc0 0x80000000 1 1) := by decide
theorem test_lMsuNs_example : answerTo Config.default 0x380080000000000000010001#96 = some 0x07FFFFFFE#34 := by decide
theorem test_lMsuNs_corner :
    answerTo Config.default (encode (.lMsuNs loc0 0xFFFFFFFE 0x8000 0x8000)) = some 0x37FFFFFFF#34 := by decide
theorem test_decode_macR : decode 0x3C0000000000000040004000#96 = .ok (.macR loc0 0 16384 16384) := by decide
theorem test_macR_example : answerTo Config.default 0x3C0000000000000040004000#96 = some 0x000004000#34 := by decide
theorem test_macR_corner :
    answerTo Config.default (encode (.macR loc0 0x3FFFC000 0 0)) = some 0x300007FFF#34 := by decide
theorem test_decode_msuR : decode 0x400000000000000040004000#96 = .ok (.msuR loc0 0 16384 16384) := by decide
theorem test_msuR_example : answerTo Config.default 0x400000000000000040004000#96 = some 0x0FFFFC000#34 := by decide
theorem test_msuR_corner :
    answerTo { Config.default with rndSh := 16 } (encode (.msuR loc0 0 16384 16384)) = some 0x0FFFFE000#34 := by decide
theorem test_decode_shl : decode 0x440000004000000000010000#96 = .ok (.shl loc0 16384 1) := by decide
theorem test_shl_example : answerTo Config.default 0x440000004000000000010000#96 = some 0x300007FFF#34 := by decide
theorem test_shl_corner :
    answerTo Config.default (encode (.shl loc0 0xFFFB 0x8000)) = some 0x0FFFFFFFF#34 := by decide
theorem test_decode_shr : decode 0x4800FFFFFFFB000000010000#96 = .ok (.shr loc0 0xFFFB 1) := by decide
theorem test_shr_example : answerTo Config.default 0x4800FFFFFFFB000000010000#96 = some 0x0FFFFFFFD#34 := by decide
theorem test_shr_corner :
    answerTo Config.default (encode (.shr loc0 0xFFFF 0xFFF0)) = some 0x3FFFF8000#34 := by decide
theorem test_decode_lShl : decode 0x4C0040000000000000010000#96 = .ok (.lShl loc0 0x40000000 1) := by decide
theorem test_lShl_example : answerTo Config.default 0x4C0040000000000000010000#96 = some 0x37FFFFFFF#34 := by decide
theorem test_lShl_corner :
    answerTo Config.default (encode (.lShl loc0 0xFFFFFFFF 31)) = some 0x080000000#34 := by decide
theorem test_decode_lShr : decode 0x5000800000000000001E0000#96 = .ok (.lShr loc0 0x80000000 30) := by decide
theorem test_lShr_example : answerTo Config.default 0x5000800000000000001E0000#96 = some 0x0FFFFFFFE#34 := by decide
theorem test_lShr_corner :
    answerTo Config.default (encode (.lShr loc0 0xFFFFFFFF 0xFFE0)) = some 0x380000000#34 := by decide
theorem test_decode_lShrR : decode 0x540000018000000000100000#96 = .ok (.lShrR loc0 0x18000 16) := by decide
theorem test_lShrR_example : answerTo Config.default 0x540000018000000000100000#96 = some 0x000000002#34 := by decide
theorem test_lShrR_corner :
    answerTo Config.default (encode (.lShrR loc0 0x7FFFFFFF 1)) = some 0x040000000#34 := by decide
theorem test_decode_normS : decode 0x580000001388000000000000#96 = .ok (.normS loc0 5000) := by decide
theorem test_normS_example : answerTo Config.default 0x580000001388000000000000#96 = some 0x000000002#34 := by decide
theorem test_normS_corner :
    answerTo Config.default (encode (.normS loc0 0xFFFF)) = some 0x00000000F#34 := by decide
theorem test_decode_normL : decode 0x5C00075BCD15000000000000#96 = .ok (.normL loc0 123456789) := by decide
theorem test_normL_example : answerTo Config.default 0x5C00075BCD15000000000000#96 = some 0x000000004#34 := by decide
theorem test_normL_corner :
    answerTo Config.default (encode (.normL loc0 0)) = some 0x000000000#34 := by decide
theorem test_decode_divS : decode 0x600000000001000000020000#96 = .ok (.divS loc0 1 2) := by decide
theorem test_divS_example : answerTo Config.default 0x600000000001000000020000#96 = some 0x000004000#34 := by decide
theorem test_divS_corner :
    answerTo { Config.default with errPolicy := .continueMax } (encode (.divS loc0 0 0)) = some 0x000007FFF#34 := by decide
theorem test_decode_rdovf : decode 0x640300000000000000000000#96 = .ok (.rdovf loc3) := by decide
theorem test_rdovf_example :
    (after (offering { State.reset with ovf := [true] } 0x640000000000000000000000#96)).rsp = some 0x200000001#34 := by decide
theorem test_decode_wrovf : decode 0x680000000001000000000000#96 = .ok (.wrovf loc0 true) := by decide
theorem test_wrovf_example :
    (after (offering { State.reset with ovf := [true] } 0x680000000000000000000000#96)).rsp = some 0x000000001#34 ∧
    (after (offering { State.reset with ovf := [true] } 0x680000000000000000000000#96)).ovf = [false] := by decide
/-- WROVF 2 writes 0 (R151). -/
theorem test_wrovf_reads_bit_zero :
    decode 0x680000000002000000000000#96 = .ok (.wrovf loc0 false) := by decide

/-! Faults, reset and the port -/

/-- DIV_S 1, 0 under ABORT: INFO is the denominator and the numerator (R143). -/
theorem test_div_abort :
    latchAfter (offering State.reset 0x600000000001000000000000#96) = (true, .divDomain, 0x00000001#32) := by decide
/-- DIV_S 1, 0 with `rsv0 = 1` reports ILLEGAL_OP (R167). -/
theorem test_priority_illegal :
    latchAfter (offering State.reset 0x610000000001000000000000#96) = (true, .illegalOp, 0x6100#32) := by decide
/-- DIV_S 1, 0 with `ctx = 200` and NCTX = 4 reports BAD_CTX (R167). -/
theorem test_priority_badCtx :
    latchAfter (offering shared4 0x60C800000001000000000000#96) = (true, .badCtx, 0x60C8#32) := by decide
theorem test_reset_leaves_halt :
    after { halted0 with moves := [.resetLow] } =
      { State.reset with rstN := false, past := [recordOf halted0] } := by decide
/-- The run that faulted is on record as not ended well, though the run after the reset has (R188). -/
theorem test_faulted_run_stays_on_record :
    ((after { halted0 with moves := [.resetLow, .resetHigh] }).past.map RunRecord.endedWell) = [false] ∧
    (after { (after { halted0 with moves := [.resetLow, .resetHigh] }) with moves := [.resetHigh] }).endedWell = true ∧
    (after { (after { halted0 with moves := [.resetLow, .resetHigh] }) with moves := [.resetHigh] }).allEndedWell = false := by
  decide
/-- A response that no command waits for and a reset to come leave the run ended well; a word to send before it does not (R188). -/
theorem test_ended_well_by_commands :
    { State.reset with moves := [.take, .resetLow, .offer 0#96] }.endedWell = true ∧
    { State.reset with moves := [.take, .offer 0#96, .resetLow] }.endedWell = false ∧
    (offering State.reset 0#96).endedWell = false ∧ halted0.endedWell = false := by decide
theorem test_port_takes :
    (after { State.reset with rsp := some 5#34, moves := [.take] }).delivered = [5#34] := by decide
theorem test_assemble_alias :
    assemble [("t", -32768)] { mnemonic := "L_mac", operands := [.name "t", .hex 0xFFFF, .dec (-1)], ctx := 2 } =
      some 0x2C02FFFF80000000FFFFFFFF#96 := by decide
theorem test_assemble_text :
    assembleText [] "ADD 32767, 1 ; the worked encoding of R63" = some 0x080000007FFF000000010000#96 := by decide
theorem test_assemble_text_options :
    parseLine "t = L_mac acc,0x4000, -2 ctx=3 ovf_in=1" =
      some { bind := some "t", mnemonic := "L_mac", operands := [.name "acc", .hex 0x4000, .dec (-2)], ctx := 3, ovfIn := true } := by
  decide
theorem test_assemble_text_pseudo : assembleText [] "CLROVF ctx=3" = some 0x680300000000000000000000#96 := by decide
theorem test_assemble_text_refuses : assembleText [] "ADD 32768, 1" = none ∧ assembleText [] "ADD 1," = none ∧
    assembleText [] "RDOVF ctx=256" = none := by decide
theorem test_fetch_runs :
    step (State.reset.withFetchWord 96 0x080000007FFF000000010000) =
      .next (answered (taken State.reset 0x080000007FFF000000010000#96) loc0 32767 true) := by rfl

/-! Witnesses: a state and operands that meet the hypotheses of each statement, at a boundary for each clause -/

/-- A state has the invariant when its parts, each of them decidable, hold. -/
theorem inv_of (s : State) (hv : s.cfg.valid = true) (hb : s.ovf.length = bankSize s.cfg)
    (hl : latchOk s.cfg s.halted s.cause s.info = true) (hs : s.halted = true → s.rsp = none)
    (hr : s.rsp.all rspOk = true) (hd : s.delivered.all rspOk = true)
    (ha : s.accepted.length = s.delivered.length + (s.rsp.isSome || s.halted).toNat)
    (hi : s.rstN = false → heldInReset s = true) (hp : s.past.all (RunRecord.ok s.cfg) = true) : s.Inv :=
  ⟨hv, hb, hl, hs, (by intro r h; rw [h] at hr; exact hr), List.all_eq_true.1 hd, ha, hi,
    List.all_eq_true.1 hp⟩

theorem inv_shared4 : shared4.Inv :=
  inv_of _ rfl rfl rfl (fun h => nomatch h) rfl rfl rfl (fun h => nomatch h) rfl
theorem inv_offering (w : CmdWord) : (offering shared4 w).Inv :=
  { inv_shared4 with inReset := fun h => nomatch h }

theorem witness_SaturateResult : CmdWord.rsv0 0x040000012345000000000000#96 = false ∧ opBits 0x040000012345000000000000#96 = 0x01 ∧
    Accepts shared4 loc3 ∧ Accepts explicit0 locE := by decide
theorem witness_AddResult : CmdWord.rsv0 0x080000007FFF000000010000#96 = false ∧ opBits 0x080000007FFF000000010000#96 = 0x02 ∧
    Accepts shared4 loc3 ∧ Accepts explicit0 locE := by decide
theorem witness_SubResult : CmdWord.rsv0 0x0C00FFFF8000000000010000#96 = false ∧ opBits 0x0C00FFFF8000000000010000#96 = 0x03 ∧
    Accepts shared4 loc3 ∧ Accepts explicit0 locE := by decide
theorem witness_NegateResult : CmdWord.rsv0 0x1000FFFF8000000000000000#96 = false ∧ opBits 0x1000FFFF8000000000000000#96 = 0x04 ∧
    Accepts shared4 loc3 ∧ Accepts explicit0 locE := by decide
theorem witness_LAddResult : CmdWord.rsv0 0x14007FFFFFFF000000010000#96 = false ∧ opBits 0x14007FFFFFFF000000010000#96 = 0x05 ∧
    Accepts shared4 loc3 ∧ Accepts explicit0 locE := by decide
theorem witness_LSubResult : CmdWord.rsv0 0x180080000000000000010000#96 = false ∧ opBits 0x180080000000000000010000#96 = 0x06 ∧
    Accepts shared4 loc3 ∧ Accepts explicit0 locE := by decide
theorem witness_LNegateResult : CmdWord.rsv0 0x1C0080000000000000000000#96 = false ∧ opBits 0x1C0080000000000000000000#96 = 0x07 ∧
    Accepts shared4 loc3 ∧ Accepts explicit0 locE := by decide
theorem witness_MultResult : CmdWord.rsv0 0x200000004000000040000000#96 = false ∧ opBits 0x200000004000000040000000#96 = 0x08 ∧
    Accepts shared4 loc3 ∧ Accepts explicit0 locE := by decide
theorem witness_MultRResult : CmdWord.rsv0 0x240000004000000040000000#96 = false ∧ opBits 0x240000004000000040000000#96 = 0x09 ∧
    Accepts shared4 loc3 ∧ Accepts explicit0 locE := by decide
theorem witness_LMultResult : CmdWord.rsv0 0x280000004000000040000000#96 = false ∧ opBits 0x280000004000000040000000#96 = 0x0A ∧
    Accepts shared4 loc3 ∧ Accepts explicit0 locE := by decide
theorem witness_LMacResult : CmdWord.rsv0 0x2C00000003E8000040004000#96 = false ∧ opBits 0x2C00000003E8000040004000#96 = 0x0B ∧
    Accepts shared4 loc3 ∧ Accepts explicit0 locE := by decide
theorem witness_LMsuResult : CmdWord.rsv0 0x3000000003E8000040004000#96 = false ∧ opBits 0x3000000003E8000040004000#96 = 0x0C ∧
    Accepts shared4 loc3 ∧ Accepts explicit0 locE := by decide
theorem witness_LMacNsResult : CmdWord.rsv0 0x34007FFFFFFF000000010001#96 = false ∧ opBits 0x34007FFFFFFF000000010001#96 = 0x0D ∧
    Accepts shared4 loc3 ∧ Accepts explicit0 locE := by decide
theorem witness_LMsuNsResult : CmdWord.rsv0 0x380080000000000000010001#96 = false ∧ opBits 0x380080000000000000010001#96 = 0x0E ∧
    Accepts shared4 loc3 ∧ Accepts explicit0 locE := by decide
theorem witness_MacRResult : CmdWord.rsv0 0x3C0000000000000040004000#96 = false ∧ opBits 0x3C0000000000000040004000#96 = 0x0F ∧
    Accepts shared4 loc3 ∧ Accepts explicit0 locE := by decide
theorem witness_MsuRResult : CmdWord.rsv0 0x400000000000000040004000#96 = false ∧ opBits 0x400000000000000040004000#96 = 0x10 ∧
    Accepts shared4 loc3 ∧ Accepts explicit0 locE := by decide
theorem witness_ShlResult : CmdWord.rsv0 0x440000004000000000010000#96 = false ∧ opBits 0x440000004000000000010000#96 = 0x11 ∧
    Accepts shared4 loc3 ∧ Accepts explicit0 locE := by decide
theorem witness_ShrResult : CmdWord.rsv0 0x4800FFFFFFFB000000010000#96 = false ∧ opBits 0x4800FFFFFFFB000000010000#96 = 0x12 ∧
    Accepts shared4 loc3 ∧ Accepts explicit0 locE := by decide
theorem witness_LShlResult : CmdWord.rsv0 0x4C0040000000000000010000#96 = false ∧ opBits 0x4C0040000000000000010000#96 = 0x13 ∧
    Accepts shared4 loc3 ∧ Accepts explicit0 locE := by decide
theorem witness_LShrResult : CmdWord.rsv0 0x5000800000000000001E0000#96 = false ∧ opBits 0x5000800000000000001E0000#96 = 0x14 ∧
    Accepts shared4 loc3 ∧ Accepts explicit0 locE := by decide
theorem witness_LShrRResult : CmdWord.rsv0 0x540000018000000000100000#96 = false ∧ opBits 0x540000018000000000100000#96 = 0x15 ∧
    Accepts shared4 loc3 ∧ Accepts explicit0 locE := by decide
theorem witness_NormSResult : CmdWord.rsv0 0x580000001388000000000000#96 = false ∧ opBits 0x580000001388000000000000#96 = 0x16 ∧
    Accepts shared4 loc3 ∧ Accepts explicit0 locE := by decide
theorem witness_NormLResult : CmdWord.rsv0 0x5C00075BCD15000000000000#96 = false ∧ opBits 0x5C00075BCD15000000000000#96 = 0x17 ∧
    Accepts shared4 loc3 ∧ Accepts explicit0 locE := by decide
theorem witness_DivSResult : CmdWord.rsv0 0x600000000001000000020000#96 = false ∧
    opBits 0x600000000001000000020000#96 = 0x18 ∧ Accepts shared4 loc3 ∧
    (0 ≤ (0x0000#16).toInt ∧ 1 ≤ (0x0001#16).toInt ∧ (0x0000#16).toInt ≤ (0x0001#16).toInt) ∧
    (0 ≤ (0x7FFF#16).toInt ∧ 1 ≤ (0x7FFF#16).toInt ∧ (0x7FFF#16).toInt ≤ (0x7FFF#16).toInt) := by decide
theorem witness_DomainErr : DomainErr 0x0000#16 0x0000#16 ∧ DomainErr 0xFFFF#16 0x0001#16 ∧
    DomainErr 0x8000#16 0x8000#16 ∧ DomainErr 0x0002#16 0x0001#16 := by decide
theorem witness_DivSAbort : Accepts shared4 loc3 ∧ shared4.cfg.errPolicy = .abort ∧ DomainErr 1#16 0#16 := by decide
/-- `shared4` under another policy. -/
def withPolicy (p : ErrPolicy) : State := { shared4 with cfg := { shared4.cfg with errPolicy := p } }
theorem witness_DivSContinueMax : Accepts (withPolicy .continueMax) loc3 ∧
    (withPolicy .continueMax).cfg.errPolicy = .continueMax ∧ DomainErr 1#16 0#16 := by decide
theorem witness_DivSContinueAbs : Accepts (withPolicy .continueAbs) loc3 ∧
    (withPolicy .continueAbs).cfg.errPolicy = .continueAbs ∧
    DomainErr 0x8000#16 0xFFFF#16 ∧ ¬ DomainErr 0x7FFF#16 0x7FFF#16 := by decide
theorem witness_RdovfResult : CmdWord.rsv0 0x640300000000000000000000#96 = false ∧
    opBits 0x640300000000000000000000#96 = 0x19 ∧ shared4.halted = false ∧ explicit0.halted = false ∧
    shared4.cfg.flagMode = .shared ∧ loc3.ctx.toNat < shared4.cfg.nctx ∧ shared4.cfg.nctx ≤ loc4.ctx.toNat ∧
    explicit0.cfg.flagMode = .explicit := by decide
theorem witness_WrovfResult : CmdWord.rsv0 0x680300000001000000000000#96 = false ∧
    opBits 0x680300000001000000000000#96 = 0x1A ∧ shared4.halted = false ∧ explicit0.halted = false ∧
    shared4.cfg.flagMode = .shared ∧ loc3.ctx.toNat < shared4.cfg.nctx ∧ shared4.cfg.nctx ≤ loc4.ctx.toNat ∧
    explicit0.cfg.flagMode = .explicit := by decide
theorem witness_WrovfReadBack : shared4.Inv ∧ shared4.cfg.flagMode = .shared ∧ loc3.ctx.toNat < shared4.cfg.nctx ∧
    exec (.wrovf loc3 false) shared4 = .next (result (.wrovf loc3 false) shared4) :=
  ⟨inv_shared4, by decide, by decide, next_result (by decide)⟩
theorem witness_FlagIsSticky : (Instr.add loc3 1 1).isFlagAccess = false ∧
    exec (.add loc3 1 1) shared4 = .next (result (.add loc3 1 1) shared4) ∧ shared4.ovf.getD 3 false = true ∧
    exec (.add locE 1 1) explicit0 = .next (result (.add locE 1 1) explicit0) ∧
    explicit0.cfg.flagMode = .explicit ∧ (Instr.add locE 1 1).loc.ovfIn = true ∧
    (result (.add locE 1 1) explicit0).halted = false :=
  ⟨by decide, next_result (by decide), by decide, next_result (by decide), by decide, by decide, by decide⟩
/-- WROVF 0 on context 3. -/
def clear3 : CmdWord := 0x680300000000000000000000#96
theorem witness_OnlyWrovfAndResetClear :
    step (offering shared4 clear3) = .next (after (offering shared4 clear3)) ∧
    (offering shared4 clear3).ovf.getD 3 false = true ∧ (after (offering shared4 clear3)).ovf.getD 3 false = false ∧
    step { shared4 with moves := [.resetLow] } = .next (after { shared4 with moves := [.resetLow] }) ∧
    (after { shared4 with moves := [.resetLow] }).ovf.getD 3 false = false :=
  ⟨next_after (by decide), by decide, by decide, next_after (by decide), by decide⟩
theorem witness_ModesGiveSameArithmetic : (Instr.mult loc3 0x8000 0x8000).isFlagAccess = false ∧
    exec (.mult loc3 0x8000 0x8000) shared4 = .next (result (.mult loc3 0x8000 0x8000) shared4) ∧
    (result (.mult loc3 0x8000 0x8000) shared4).halted = false ∧
    exec (.mult locE 0x8000 0x8000) explicit0 = .next (result (.mult locE 0x8000 0x8000) explicit0) ∧
    (result (.mult locE 0x8000 0x8000) explicit0).halted = false :=
  ⟨by decide, next_result (by decide), by decide, next_result (by decide), by decide⟩
/-- `shared4` with another flag in context 0. -/
def shared4' : State := { shared4 with ovf := [true, true, false, true] }
theorem inv_shared4x : shared4'.Inv :=
  inv_of _ rfl rfl rfl (fun h => nomatch h) rfl rfl rfl (fun h => nomatch h) rfl
theorem witness_ContextsAreIsolated : shared4.Inv ∧ shared4'.Inv ∧ shared4.cfg = shared4'.cfg ∧
    shared4.cfg.flagMode = .shared ∧ (Instr.add loc3 1 1).loc.ctx.toNat < shared4.cfg.nctx ∧
    shared4.halted = false ∧ shared4'.halted = false ∧
    shared4.ovf.getD (Instr.add loc3 1 1).loc.ctx.toNat false = shared4'.ovf.getD (Instr.add loc3 1 1).loc.ctx.toNat false ∧
    exec (.add loc3 1 1) shared4 = .next (result (.add loc3 1 1) shared4) ∧
    exec (.add loc3 1 1) shared4' = .next (result (.add loc3 1 1) shared4') :=
  ⟨inv_shared4, inv_shared4x, by decide, by decide, by decide, by decide, by decide, by decide,
    next_result (by decide), next_result (by decide)⟩
theorem witness_ExplicitModeIsStateless : explicit0.cfg = { explicit0 with delivered := [7#34] }.cfg ∧
    explicit0.cfg.flagMode = .explicit ∧ explicit0.halted = false ∧
    exec (.add locE 1 1) explicit0 = .next (result (.add locE 1 1) explicit0) ∧
    exec (.add locE 1 1) { explicit0 with delivered := [7#34] } =
      .next (result (.add locE 1 1) { explicit0 with delivered := [7#34] }) :=
  ⟨by decide, by decide, by decide, next_result (by decide), next_result (by decide)⟩
theorem witness_ShiftSymmetry : (0x7FFF#16 ≠ 0x8000#16) ∧ (0x8001#16 ≠ 0x8000#16) ∧ Accepts shared4 loc3 := by decide
theorem witness_Normalises : (0xFFFF#16 ≠ 0) ∧ (0xFFFFFFFF#32 ≠ 0) ∧ Accepts shared4 loc3 := by decide
/-- SATURATE 0x00012345, and the same with `ovf_in`, field b and field c changed. -/
def sat1 : CmdWord := 0x040000012345000000000000#96
def sat1' : CmdWord := 0x060000012345FFFFFFFFFFFF#96
theorem witness_IgnoredBitsDoNotMatter : Ready (offering shared4 sat1) sat1 ∧ opBits sat1 = opBits sat1' ∧
    sat1 &&& (usedMask (opBits sat1) &&& modeMask shared4.cfg) =
      sat1' &&& (usedMask (opBits sat1) &&& modeMask shared4.cfg) ∧
    step (offering shared4 sat1) = .next (after (offering shared4 sat1)) ∧
    step { offering shared4 sat1 with req := some sat1' } =
      .next (after { offering shared4 sat1 with req := some sat1' }) :=
  ⟨by decide, by decide, by decide, next_after (by decide), next_after (by decide)⟩
theorem witness_StepRunsDecoded : Ready (offering shared4 clear3) clear3 ∧
    decode clear3 = .ok (.wrovf loc3 false) := by decide
/-- The all-zero word, the first code above the table, the reserved bit. -/
def badWords : List CmdWord := [0#96, 0x6C0000000000000000000000#96, 0x090000000000000000000000#96]
theorem witness_IllegalWordHalts : Ready (offering shared4 0#96) 0#96 ∧
    (badWords.all fun w => decide (Illegal shared4.cfg w)) = true ∧
    Ready (offering explicit0 clear3) clear3 ∧ Illegal explicit0.cfg clear3 ∧
    Illegal explicit0.cfg 0x640000000000000000000000#96 := by decide
/-- NORM_S 1 on context 4. -/
def norm4 : CmdWord := 0x580400000001000000000000#96
theorem witness_BadContextHalts : Ready (offering shared4 norm4) norm4 ∧ ¬ Illegal shared4.cfg norm4 ∧
    shared4.cfg.flagMode = .shared ∧ shared4.cfg.nctx ≤ (norm4.extractLsb' 80 8).toNat ∧
    step (offering shared4 norm4) = .next (after (offering shared4 norm4)) ∧
    (after (offering shared4 norm4)).cause = .badCtx ∧ (offering shared4 norm4).cause ≠ .badCtx :=
  ⟨by decide, by decide, by decide, by decide, next_after (by decide), by decide, by decide⟩
theorem witness_EveryCommandEnds : Ready (offering shared4 norm4) norm4 ∧
    Ready (offering explicit0 sat1) sat1 := by decide
/-- DIV_S 1, 0. -/
def div10 : CmdWord := 0x600000000001000000000000#96
theorem witness_FaultsAreTheNamedOnes : (offering shared4 div10).Inv ∧ Ready (offering shared4 div10) div10 ∧
    step (offering shared4 div10) = .next (after (offering shared4 div10)) :=
  ⟨inv_offering _, by decide, next_after (by decide)⟩
theorem witness_StepStops : halted0.cfg.valid = true ∧ halted0.halted = true ∧ halted0.moves = [] ∧
    { State.reset with cfg := { Config.default with nctx := 0 } }.cfg.nctx = 0 ∧
    256 < { State.reset with cfg := { Config.default with nctx := 257 } }.cfg.nctx ∧
    { State.reset with cfg := { Config.default with rndSh := 14 } }.cfg.rndSh ≠ 15 := by decide
theorem witness_ResetPulse : halted0.cfg.valid = true ∧ { halted0 with moves := [.resetLow] }.accepting = none ∧
    { explicit0 with rsp := some 5#34, moves := [.resetLow] }.accepting = none ∧
    { State.reset with rstN := false, moves := [.resetHigh] }.accepting = none ∧
    { State.reset with rstN := false, moves := [.resetHigh] }.halted = false := by decide
/-- A fresh block whose reset input is low, with a word offered. -/
def low : State := { State.reset with rstN := false, req := some sat1, moves := [.resetHigh] }
theorem inv_low : low.Inv :=
  inv_of _ rfl rfl rfl (fun _ => rfl) rfl rfl rfl (fun _ => rfl) rfl
theorem witness_ResetHolds : low.Inv ∧ low.rstN = false ∧ step low = .next (after low) ∧ low.req ≠ none :=
  ⟨inv_low, by decide, next_after (by decide), by decide⟩
theorem witness_OnlyResetLeavesHalt : { halted0 with moves := [.resetLow] }.halted = true ∧
    step { halted0 with moves := [.resetLow] } = .next (after { halted0 with moves := [.resetLow] }) :=
  ⟨by decide, next_after (by decide)⟩
theorem witness_PortHandshake : State.reset.cfg.valid = true ∧ State.reset.halted = false ∧ State.reset.rstN = true ∧
    { State.reset with rsp := some 5#34 }.moves = [] ∧
    { State.reset with rsp := some 5#34, moves := [.take] }.rsp = some 5#34 ∧
    { State.reset with moves := [.offer sat1] }.req = none := by decide
/-- `shared4` with the response to SATURATE 0x00012345 on the port. -/
def responding (ms : List Move) : State :=
  { shared4 with rsp := some 0x300007FFF#34, accepted := [sat1], moves := ms }
theorem inv_responding (ms : List Move) : (responding ms).Inv :=
  inv_of _ rfl rfl rfl (fun h => nomatch h) rfl rfl rfl (fun h => nomatch h) rfl
theorem witness_ResponsesInOrder : (responding [.take]).Inv ∧
    step (responding [.take]) = .next (after (responding [.take])) ∧
    (after (responding [.take])).delivered = [0x300007FFF#34] ∧ (responding [.resetLow]).Inv ∧
    step (responding [.resetLow]) = .next (after (responding [.resetLow])) ∧
    (after (responding [.resetLow])).past = [recordOf (responding [.resetLow])] :=
  ⟨inv_responding _, next_after (by decide), by decide, inv_responding _, next_after (by decide), by decide⟩
theorem witness_EndedWellMeans : shared4.Inv ∧ shared4.endedWell = true ∧ (offering shared4 sat1).Inv ∧
    (offering shared4 sat1).endedWell = false := ⟨inv_shared4, by decide, inv_offering _, by decide⟩
/-- `halted0`, reset to be pulled next. -/
def halted1 : State := { halted0 with moves := [.resetLow] }
theorem inv_halted1 : halted1.Inv :=
  inv_of _ rfl rfl rfl (fun _ => rfl) rfl rfl rfl (fun h => nomatch h) rfl
theorem witness_FaultedRunNeverEndsWell : halted1.Inv ∧ halted1.halted = true ∧ step halted1 = .next (after halted1) :=
  ⟨inv_halted1, by decide, next_after (by decide)⟩
/-- `shared4` and a requester that sends these words and takes their responses. -/
def sending (ws : List CmdWord) : State := { shared4 with moves := sendAll ws }
theorem witness_FiniteRunsEnd : (sending [sat1, clear3]).Inv ∧ (sending [sat1, clear3]).rstN = true ∧
    (sending [sat1, clear3]).halted = false ∧ (sending [sat1, clear3]).req = none ∧ (sending [sat1, clear3]).rsp = none ∧
    (sending [sat1, clear3]).moves = sendAll [sat1, clear3] ∧ ¬ Faults shared4.cfg sat1 ∧ ¬ Faults shared4.cfg clear3 ∧
    (sending [div10]).Inv ∧ Faults shared4.cfg div10 :=
  ⟨{ inv_shared4 with inReset := fun h => nomatch h }, by decide, by decide, by decide, by decide, by decide, by decide,
    by decide, { inv_shared4 with inReset := fun h => nomatch h }, by decide⟩
theorem witness_NothingUnasked : step low = .next (after low) ∧ low.accepting = none :=
  ⟨next_after (by decide), by decide⟩
theorem witness_ParametersAreFixed : step (offering shared4 sat1) = .next (after (offering shared4 sat1)) := next_after (by decide)
theorem witness_StepKeepsInv : (offering shared4 div10).Inv ∧
    step (offering shared4 div10) = .next (after (offering shared4 div10)) :=
  ⟨inv_offering _, next_after (by decide)⟩
theorem witness_ResetHasInv : Config.valid { Config.default with nctx := 256, rndSh := 16 } = true := by decide

end Sys2Proof.Tests
end

/-! Facts that the statements of 00_scope.md need (R6, R8), and the theorems that settle them. -/

section
namespace Sys2Proof.Machine

/-! The event and the result of a reply, as the low 33 bits of a response word (30_encoding.md R52) -/

/-- The `ovf_event` bit and the `result` field, without the flag above them (R52). -/
def Reply.bits (r : Reply) : BitVec 33 := BitVec.ofBool r.event ++ r.result

/-- The flag is the one bit of a response that the reply does not fix. -/
theorem extract_packRsp (f : Bool) (r : Reply) : (packRsp f r.event r.result).extractLsb' 0 33 = r.bits := by
  have split_flag : packRsp f r.event r.result = BitVec.ofBool f ++ r.bits := BitVec.append_assoc
  rw [split_flag, extract_append_low _ _ 0 33 (by decide), extract_whole]

/-! An arithmetic command's reply is a function of its operation code and operand fields (00_scope.md R8) -/

/-- The reply to a command word under an error policy and a rounding distance: decode, then the command's own reply. -/
def wordReply (w : CmdWord) (ep : ErrPolicy) (rndSh : Nat) : Option Reply :=
  match decode w with
  | .ok i => arithReply i ep rndSh
  | .error _ => none

/-- A word with a command's operation code and operand fields has that command's reply, whatever flag location it names: the row
of the code reads each operand back from where the command put it. -/
theorem wordReply_of_fields (w : CmdWord) (i : Instr) (ep : ErrPolicy) (rndSh : Nat)
    (hrsv : CmdWord.rsv0 w = false) (hop : CmdWord.op w = i.opcode)
    (ha : CmdWord.a w = i.fields.1) (hb : CmdWord.b w = i.fields.2.1) (hc : CmdWord.c w = i.fields.2.2) :
    wordReply w ep rndSh = arithReply i ep rndSh := by
  unfold wordReply decode
  rw [hrsv, hop]
  cases i <;> simp only [Instr.fields] at ha hb hc <;>
    simp [Instr.opcode, arithReply, CmdWord.a16, CmdWord.b16, ha, hb, hc, setWidth_signExtend]

/-- The reply to an operation code and operand fields, sent with `ovf_in = 0` on context 0. -/
def fieldsReply (op : BitVec 6) (fields : Word32 × Word32 × Word16) (ep : ErrPolicy) (rndSh : Nat) : Option Reply :=
  wordReply (packCmd (packHead op false false 0) fields.1 fields.2.1 fields.2.2) ep rndSh

theorem fieldsReply_eq_arithReply (i : Instr) (ep : ErrPolicy) (rndSh : Nat) :
    fieldsReply i.opcode i.fields ep rndSh = arithReply i ep rndSh := by
  apply wordReply_of_fields
  · rw [rsv0_eq_head, head_packCmd, packHead_rsv0]
  · rw [op_eq_head, head_packCmd, packHead_op]
  · exact a_packCmd _ _ _ _
  · exact b_packCmd _ _ _ _
  · exact c_packCmd _ _ _ _

/-- The `ovf_event` bit and the `result` field of the response to an operation code and operand fields (R8); 0 where no command
answers. -/
def responseBits (op : BitVec 6) (fields : Word32 × Word32 × Word16) (ep : ErrPolicy) (rndSh : Nat) : BitVec 33 :=
  ((fieldsReply op fields ep rndSh).map Reply.bits).getD 0

theorem responseBits_of_reply (i : Instr) (ep : ErrPolicy) (rndSh : Nat) (r : Reply)
    (h : arithReply i ep rndSh = some r) : responseBits i.opcode i.fields ep rndSh = r.bits := by
  rw [responseBits, fieldsReply_eq_arithReply, h]; rfl

/-- An arithmetic command that does not fault was answered with its reply. -/
theorem exec_arith_answered (i : Instr) (s t : State) (hi : i.isFlagAccess = false) (he : exec i s = .next t)
    (ht : t.halted = false) :
    ∃ r, arithReply i s.cfg.errPolicy s.cfg.rndSh = some r ∧ t = s.answer i.loc r := by
  rcases exec_arith_cases i s hi with ⟨_, hx⟩ | ⟨_, r, hr, hx⟩ | ⟨_, _, hx⟩ <;>
    obtain rfl := Host.Outcome.next.inj (he.symm.trans hx)
  · cases ht
  · exact ⟨r, hr, rfl⟩
  · cases ht

/-! No step writes a parameter (00_scope.md R6, 70_reset_and_hazards.md R185) -/

theorem exec_keeps_cfg (i : Instr) (s t : State) (he : exec i s = .next t) : t.cfg = s.cfg := by
  cases hi : i.isFlagAccess
  case false =>
    rcases exec_arith_cases i s hi with ⟨_, hx⟩ | ⟨_, r, _, hx⟩ | ⟨_, _, hx⟩ <;>
      obtain rfl := Host.Outcome.next.inj (he.symm.trans hx) <;> simp
  case true =>
    rcases exec_flagAccess_cases i s hi with ⟨_, hx⟩ | ⟨_, _, hx⟩ | ⟨_, _, ⟨l, _, hx⟩ | ⟨l, v, _, hx⟩⟩ <;>
      obtain rfl := Host.Outcome.next.inj (he.symm.trans hx) <;> simp

theorem acceptCommand_keeps_cfg (cw : CmdWord) (s t : State) (h : acceptCommand cw s = .next t) : t.cfg = s.cfg := by
  cases hd : decode cw with
  | error r =>
    rw [acceptCommand_of_reject s cw r hd] at h
    obtain rfl := Host.Outcome.next.inj h
    simp
  | ok i => exact exec_keeps_cfg i s t (by rwa [acceptCommand_of_decode s cw i hd] at h)

theorem step_keeps_cfg (s t : State) (h : step s = .next t) : t.cfg = s.cfg := by
  obtain ⟨_, _, ⟨cw, _, hx⟩ | ⟨_, rfl⟩⟩ := step_next_cases s t h
  · simpa using acceptCommand_keeps_cfg cw (s.consume cw) t hx
  · exact s.playMove_cfg

end Sys2Proof.Machine

namespace Sys2Proof.Spec
open Sys2Proof.Machine

/-! No operation reads LATENCY: each commutes with a change of it (70_reset_and_hazards.md R187) -/

section latency
variable (n : Nat) (s : State)

@[simp] theorem mapNext_next (f : State → State) (t : State) : mapNext f (.next t) = .next (f t) := rfl

/-! What `withLatency` leaves: every other parameter, and what the port and the tests of R60 see -/

@[simp] theorem withLatency_flagMode : (withLatency n s).cfg.flagMode = s.cfg.flagMode := rfl
@[simp] theorem withLatency_errPolicy : (withLatency n s).cfg.errPolicy = s.cfg.errPolicy := rfl
@[simp] theorem withLatency_rndSh : (withLatency n s).cfg.rndSh = s.cfg.rndSh := rfl
@[simp] theorem withLatency_valid : (withLatency n s).cfg.valid = s.cfg.valid := rfl
@[simp] theorem withLatency_halted : (withLatency n s).halted = s.halted := rfl
@[simp] theorem withLatency_req : (withLatency n s).req = s.req := rfl
@[simp] theorem withLatency_moves : (withLatency n s).moves = s.moves := rfl
@[simp] theorem withLatency_badContext (l : FlagLoc) : (withLatency n s).badContext l = s.badContext l := rfl
@[simp] theorem withLatency_resetNext : (withLatency n s).resetNext = s.resetNext := rfl
@[simp] theorem withLatency_rspOffered : (withLatency n s).rspOffered = s.rspOffered := rfl
@[simp] theorem withLatency_accepting : (withLatency n s).accepting = s.accepting := rfl

/-! The updates of the state -/


theorem updateFlag_withLatency (l : FlagLoc) (e : Bool) :
    (withLatency n s).updateFlag l e = withLatency n (s.updateFlag l e) := by
  cases h : s.cfg.flagMode
  · rw [updateFlag_shared s l e h, updateFlag_shared (withLatency n s) l e h]; rfl
  · rw [updateFlag_explicit s l e h, updateFlag_explicit (withLatency n s) l e h]

theorem answer_withLatency (l : FlagLoc) (r : Reply) :
    (withLatency n s).answer l r = withLatency n (s.answer l r) := by
  unfold State.answer
  rw [updateFlag_withLatency]
  rfl

theorem deliver_withLatency : (withLatency n s).deliver = withLatency n s.deliver := by
  unfold State.deliver
  rw [withLatency_rspOffered]
  cases s.rspOffered <;> rfl

theorem playMove_withLatency : (withLatency n s).playMove = withLatency n s.playMove := by
  unfold State.playMove
  rw [withLatency_moves, withLatency_req, withLatency_rspOffered, deliver_withLatency]
  rcases s.moves with _ | ⟨m, ms⟩
  · rfl
  · cases m
    case offer cw => cases s.req <;> rfl
    case take => cases s.rspOffered <;> rfl
    case resetLow => rfl
    case resetHigh => rfl

/-! The meanings and the step -/

theorem runArith_withLatency (i : Instr) (r : Reply) :
    runArith i r (withLatency n s) = mapNext (withLatency n) (runArith i r s) := by
  cases h : s.badContext i.loc
  · rw [runArith_of_present i r s h, runArith_of_present i r (withLatency n s) h, answer_withLatency, mapNext_next]
  · rw [runArith_of_absent i r s h, runArith_of_absent i r (withLatency n s) h]; rfl

theorem execRdovf_withLatency (l : FlagLoc) :
    execRdovf l (withLatency n s) = mapNext (withLatency n) (execRdovf l s) := by
  unfold execRdovf
  rw [withLatency_flagMode, withLatency_badContext]
  split
  · rfl
  · split <;> rfl

theorem execWrovf_withLatency (l : FlagLoc) (v : Bool) :
    execWrovf l v (withLatency n s) = mapNext (withLatency n) (execWrovf l v s) := by
  unfold execWrovf
  rw [withLatency_flagMode, withLatency_badContext]
  split
  · rfl
  · split <;> rfl

theorem exec_arith_withLatency (i : Instr) (hi : i.isFlagAccess = false) :
    exec i (withLatency n s) = mapNext (withLatency n) (exec i s) := by
  rw [exec_eq_arithReply i s hi, exec_eq_arithReply i (withLatency n s) hi, withLatency_errPolicy, withLatency_rndSh,
    withLatency_badContext]
  cases arithReply i s.cfg.errPolicy s.cfg.rndSh with
  | some r => exact runArith_withLatency n s i r
  | none => cases s.badContext i.loc <;> rfl

theorem exec_withLatency (i : Instr) : exec i (withLatency n s) = mapNext (withLatency n) (exec i s) := by
  cases i
  case rdovf l => exact execRdovf_withLatency n s l
  case wrovf l v => exact execWrovf_withLatency n s l v
  all_goals exact exec_arith_withLatency n s _ rfl

theorem acceptCommand_withLatency (cw : CmdWord) :
    acceptCommand cw (withLatency n s) = mapNext (withLatency n) (acceptCommand cw s) := by
  cases hd : decode cw with
  | error r => rw [acceptCommand_of_reject _ cw r hd, acceptCommand_of_reject _ cw r hd]; rfl
  | ok i => rw [acceptCommand_of_decode _ cw i hd, acceptCommand_of_decode _ cw i hd, exec_withLatency]

theorem step_withLatency : step (withLatency n s) = mapNext (withLatency n) (step s) := by
  unfold step
  rw [withLatency_valid, withLatency_halted, withLatency_resetNext, withLatency_accepting]
  split
  · rfl
  · split
    · rfl
    · cases s.accepting with
      | some cw => exact acceptCommand_withLatency n (s.consume cw) cw
      | none => exact congrArg Host.Outcome.next (playMove_withLatency n s)

end latency

/-! The statements -/

/-- Settles O37: the function is `responseBits`; the flag mode, `NCTX` and the flags decide only whether a command is answered
and the response's flag bit. -/
theorem modesGiveSameArithmetic : Obligations.ModesGiveSameArithmetic := by
  refine ⟨responseBits, fun i s t hi he ht => ?_⟩
  obtain ⟨r, hr, rfl⟩ := exec_arith_answered i s t hi he ht
  exact ⟨_, s.answer_rsp i.loc r, (extract_packRsp _ r).trans (responseBits_of_reply i _ _ r hr).symm⟩

/-- Settles O58, by the frame of the parameters and the commutation of the step with a change of LATENCY. -/
theorem parametersAreFixed : Obligations.ParametersAreFixed :=
  ⟨step_keeps_cfg, fun s n => step_withLatency n s⟩

end Sys2Proof.Spec
end

/-! Facts that the statements of 10_state.md need (R22 to R32), and the theorems that settle them. -/

section
namespace Sys2Proof.Machine

/-! What an answered command leaves: the arms of `exec` that respond, told apart by what they do to the bank (10_state.md R23, R24;
46_flag_access.md R150, R151) -/

/-- The state after a command that does not fault. -/
inductive Answers (s : State) : Instr → State → Prop where
  | arith (i : Instr) (r : Reply) (hi : i.isFlagAccess = false) : Answers s i (s.answer i.loc r)
  | read (l : FlagLoc) : Answers s (.rdovf l) (s.respond (bit32 (s.readOvf l.ctx)) false (s.readOvf l.ctx))
  | write (l : FlagLoc) (v : Bool) :
      Answers s (.wrovf l v) ((s.writeOvf l.ctx v).respond (bit32 (s.readOvf l.ctx)) false v)

/-! The fault latch (60_exceptions.md R160 to R162) -/

theorem zext32_toNat_lt (x : BitVec 16) : (zext32 x).toNat < 2 ^ 16 := by
  rw [zext32, BitVec.toNat_setWidth]
  exact (Nat.mod_le _ _).trans_lt x.isLt

theorem latchOk_illegalOp (c : Config) (x : BitVec 16) : latchOk c true .illegalOp (zext32 x) = true := by
  simpa [latchOk] using zext32_toNat_lt x

theorem latchOk_badCtx (s : State) (l : FlagLoc) (x : BitVec 16) (h : s.badContext l = true) :
    latchOk s.cfg true .badCtx (zext32 x) = true := by
  have hshared := ((badContext_eq_true_iff s l).1 h).1
  simpa [latchOk, hshared] using zext32_toNat_lt x

/-- Only ABORT makes a fault of a domain error (45_division.md R143 to R145). -/
theorem divS16_eq_none (p : ErrPolicy) (num den : Int) (h : divS16 p num den = none) : p = .abort := by
  cases p
  case abort => rfl
  all_goals
    unfold divS16 at h
    split_ifs at h

/-- An arithmetic command without a reply is a division under ABORT. -/
theorem arithReply_eq_none (i : Instr) (ep : ErrPolicy) (rndSh : Nat) (hi : i.isFlagAccess = false)
    (h : arithReply i ep rndSh = none) : ep = .abort := by
  cases i
  case divS l num den => exact divS16_eq_none ep _ _ (Option.map_eq_none_iff.1 h)
  case rdovf => cases hi
  case wrovf => cases hi
  all_goals cases h

/-! All a command can do (30_encoding.md R60): a fault the latch may hold, or an answer -/

theorem exec_next_cases (i : Instr) (s t : State) (h : exec i s = .next t) :
    (∃ c x, latchOk s.cfg true c x = true ∧ t = s.raiseFault c x) ∨ Answers s i t := by
  cases hi : i.isFlagAccess
  case false =>
    rcases exec_arith_cases i s hi with ⟨hb, hx⟩ | ⟨_, r, _, hx⟩ | ⟨_, hr, hx⟩ <;>
      obtain rfl := Host.Outcome.next.inj (h.symm.trans hx)
    · exact .inl ⟨_, _, latchOk_badCtx s i.loc i.head hb, rfl⟩
    · exact .inr (.arith i r hi)
    · have habort := arithReply_eq_none i _ _ hi hr
      exact .inl ⟨_, _, by simp [latchOk, habort], rfl⟩
  case true =>
    rcases exec_flagAccess_cases i s hi with
        ⟨_, hx⟩ | ⟨_, hb, hx⟩ | ⟨_, _, ⟨l, rfl, hx⟩ | ⟨l, v, rfl, hx⟩⟩ <;>
      obtain rfl := Host.Outcome.next.inj (h.symm.trans hx)
    · exact .inl ⟨_, _, latchOk_illegalOp s.cfg i.head, rfl⟩
    · exact .inl ⟨_, _, latchOk_badCtx s i.loc i.head hb, rfl⟩
    · exact .inr (.read l)
    · exact .inr (.write l v)

theorem acceptCommand_next_cases (cw : CmdWord) (s t : State) (h : acceptCommand cw s = .next t) :
    (∃ c x, latchOk s.cfg true c x = true ∧ t = s.raiseFault c x) ∨ ∃ i, decode cw = .ok i ∧ Answers s i t := by
  cases hd : decode cw with
  | error r =>
    rw [acceptCommand_of_reject s cw r hd] at h
    obtain rfl := Host.Outcome.next.inj h
    exact .inl ⟨_, _, latchOk_illegalOp s.cfg (CmdWord.head cw), rfl⟩
  | ok i =>
    rw [acceptCommand_of_decode s cw i hd] at h
    exact (exec_next_cases i s t h).imp_right fun ha => ⟨i, rfl, ha⟩

/-! Which flag a command can clear (10_state.md R25, 46_flag_access.md R151) -/

/-- A register that a write to the bank clears is the one written, and was written 0. -/
theorem set_clears (bank : List Bool) (j k : Nat) (v : Bool) (h1 : bank.getD k false = true)
    (h0 : (bank.set j v).getD k false = false) : j = k ∧ v = false := by
  rw [List.getD_eq_getElem?_getD] at h1 h0
  by_cases hjk : j = k
  · subst hjk
    by_cases hlt : j < bank.length
    · exact ⟨rfl, by simpa [hlt] using h0⟩
    · simp [hlt] at h1
  · rw [List.getElem?_set_ne hjk, h1] at h0
    cases h0

/-- The flag update ORs the event in, so it clears nothing. -/
theorem updateFlag_keeps_set (s : State) (l : FlagLoc) (e : Bool) (k : Nat) (h1 : s.ovf.getD k false = true) :
    (s.updateFlag l e).ovf.getD k false = true := by
  cases hm : s.cfg.flagMode
  case shared =>
    rw [updateFlag_shared s l e hm, State.writeOvf_ovf]
    by_contra h0
    obtain ⟨hk, hv⟩ := set_clears s.ovf _ k _ h1 (Bool.eq_false_of_not_eq_true h0)
    have hold : s.readOvf l.ctx = true := by rw [State.readOvf, hk, h1]
    simp [hold] at hv
  case explicit => rwa [updateFlag_explicit s l e hm]

theorem Answers.clears {s t : State} {i : Instr} {k : Nat} (h : Answers s i t) (h1 : s.ovf.getD k false = true)
    (h0 : t.ovf.getD k false = false) : ∃ l, i = .wrovf l false ∧ l.ctx.toNat = k := by
  cases h with
  | arith i r =>
    rw [State.answer_ovf, updateFlag_keeps_set s i.loc r.event k h1] at h0
    cases h0
  | read l =>
    rw [State.respond_ovf, h1] at h0
    cases h0
  | write l v =>
    obtain ⟨hk, rfl⟩ := set_clears s.ovf _ k v h1 h0
    exact ⟨l, rfl, hk⟩

/-- An arithmetic command leaves every flag that was 1 at 1, whether it is answered or faults. -/
theorem exec_arith_keeps_set (i : Instr) (s t : State) (k : Nat) (hi : i.isFlagAccess = false)
    (h : exec i s = .next t) (h1 : s.ovf.getD k false = true) : t.ovf.getD k false = true := by
  rcases exec_next_cases i s t h with ⟨c, x, _, rfl⟩ | ha
  · exact h1
  · by_contra h0
    obtain ⟨l, rfl, _⟩ := ha.clears h1 (Bool.eq_false_of_not_eq_true h0)
    cases hi

theorem acceptCommand_clears (cw : CmdWord) (s t : State) (k : Nat) (h : acceptCommand cw s = .next t)
    (h1 : s.ovf.getD k false = true) (h0 : t.ovf.getD k false = false) :
    ∃ l, decode cw = .ok (.wrovf l false) ∧ l.ctx.toNat = k := by
  rcases acceptCommand_next_cases cw s t h with ⟨c, x, _, rfl⟩ | ⟨i, hd, ha⟩
  · rw [State.raiseFault_ovf, h1] at h0
    cases h0
  · obtain ⟨l, rfl, hk⟩ := ha.clears h1 h0
    exact ⟨l, hd, hk⟩

/-- Of the requester's moves only pulling reset touches the bank. -/
theorem playMove_ovf (s : State) (h : s.resetNext = false) : s.playMove.ovf = s.ovf := by
  rcases playMove_cases s with hp | ⟨_, _, _, _, hp⟩ | ⟨_, _, _, _, hp⟩ | ⟨ms, hm, _⟩ | ⟨_, _, hp⟩
  case inr.inr.inr.inl =>
    have hlow := (resetNext_iff s).2 ⟨ms, hm⟩
    simp [h] at hlow
  all_goals simp [hp]

/-! EXPLICIT mode: what a command does is written in its word (10_state.md R24, 46_flag_access.md R152) -/

section explicit
variable (i : Instr) (s : State) (hm : s.cfg.flagMode = .explicit)
include hm

theorem badContext_explicit (l : FlagLoc) : s.badContext l = false :=
  (badContext_eq_false_iff s l).2 fun hshared => by simp [hm] at hshared

theorem exec_explicit_flagAccess (hi : i.isFlagAccess = true) : exec i s = .next (s.raiseIllegal i) := by
  rcases exec_flagAccess_cases i s hi with ⟨_, hx⟩ | ⟨hshared, _⟩ | ⟨hshared, _⟩
  · exact hx
  all_goals simp [hm] at hshared

theorem exec_explicit_of_reply (hi : i.isFlagAccess = false) (r : Reply)
    (hr : arithReply i s.cfg.errPolicy s.cfg.rndSh = some r) :
    exec i s = .next (s.respond r.result r.event (i.loc.ovfIn || r.event)) := by
  rw [exec_eq_arithReply i s hi, hr]
  show runArith i r s = _
  rw [runArith_of_present i r s (badContext_explicit s hm i.loc), State.answer, updateFlag_explicit s _ _ hm,
    flagAfter_explicit s _ _ hm]

theorem exec_explicit_of_no_reply (hi : i.isFlagAccess = false)
    (hr : arithReply i s.cfg.errPolicy s.cfg.rndSh = none) :
    exec i s = .next (s.raiseFault .divDomain (divInfo i)) := by
  rw [exec_eq_arithReply i s hi, hr]
  simp [badContext_explicit s hm i.loc]

end explicit

/-! Reset (10_state.md R32, 70_reset_and_hazards.md R180) -/

theorem resetBank_length (c : Config) : (resetBank c).length = bankSize c := by
  cases h : c.flagMode <;> simp [resetBank, bankSize, h]

/-- Where no word is accepted and the block may step, the step is the requester's move. -/
theorem step_of_no_accept (s : State) (hv : s.cfg.valid = true) (hh : s.halted = false ∨ s.resetNext = true)
    (ha : s.accepting = none) : step s = .next s.playMove := by
  have running : ¬ (s.halted && !s.resetNext) = true := by
    rcases hh with hh | hh <;> simp [hh]
  unfold step
  rw [if_neg (by simp [hv]), if_neg running, ha]

theorem playMove_of_resetLow (s : State) (ms : List Move) (h : s.moves = .resetLow :: ms) :
    s.playMove = { s.assertReset with moves := ms } := by
  simp [State.playMove, h]

theorem playMove_of_resetHigh (s : State) (ms : List Move) (h : s.moves = .resetHigh :: ms) :
    s.playMove = { s.releaseReset with moves := ms } := by
  simp [State.playMove, h]

/-! What an answer leaves as it was, and the response word it offers (10_state.md R23, R24, 30_encoding.md R52) -/

theorem rspOk_packRsp (f e : Bool) (r : Word32) (h : e = true → f = true) : rspOk (packRsp f e r) = true := by
  cases e <;> simp_all [rspOk]

/-- An event sets the flag. -/
theorem flagAfter_of_event (s : State) (l : FlagLoc) (e : Bool) (h : e = true) : s.flagAfter l e = true := by
  rw [State.flagAfter, h, Bool.or_true]

theorem updateFlag_frame (s : State) (l : FlagLoc) (e : Bool) :
    s.updateFlag l e = { s with ovf := (s.updateFlag l e).ovf } := by
  cases hm : s.cfg.flagMode
  · rw [updateFlag_shared s l e hm]; rfl
  · rw [updateFlag_explicit s l e hm]

/-- An answer changes the bank's contents and offers a response R52 allows, and nothing else. -/
theorem Answers.frame {s t : State} {i : Instr} (h : Answers s i t) :
    ∃ bank r, bank.length = s.ovf.length ∧ rspOk r = true ∧ t = { s with ovf := bank, rsp := some r } := by
  cases h with
  | arith i r =>
    exact ⟨_, _, updateFlag_length s i.loc r.event, rspOk_packRsp _ _ r.result (flagAfter_of_event s i.loc r.event),
      congrArg (·.respond r.result r.event (s.flagAfter i.loc r.event)) (updateFlag_frame s i.loc r.event)⟩
  | read l => exact ⟨s.ovf, _, rfl, rspOk_packRsp (s.readOvf l.ctx) false _ nofun, rfl⟩
  | write l v => exact ⟨_, _, writeOvf_length s l.ctx v, rspOk_packRsp v false _ nofun, rfl⟩

/-! The invariant, operation by operation -/

section invariant
variable {s t : State}

/-- The invariant says nothing of what the requester drives or plans. -/
theorem State.Inv.with_requester (h : s.Inv) (q : Option CmdWord) (ms : List Move) :
    ({ s with req := q, moves := ms }).Inv :=
  ⟨h.cfgValid, h.bank, h.latch, h.haltedSilent, h.rspAllowed, h.deliveredAllowed, h.oneInBlock, h.inReset, h.pastAllowed⟩

/-- A block that is about to accept a word has answered every earlier one. -/
theorem State.Inv.all_answered (h : s.Inv) {cw : CmdWord} (ha : s.accepting = some cw) :
    s.accepted.length = s.delivered.length := by
  obtain ⟨_, hrun, hrsp, _⟩ := (accepting_eq_some_iff s cw).1 ha
  simpa [hrun, hrsp] using h.oneInBlock

theorem State.Inv.raiseFault_consume (h : s.Inv) {cw : CmdWord} (ha : s.accepting = some cw) (c : Cause) (x : BitVec 32)
    (hl : latchOk s.cfg true c x = true) : ((s.consume cw).raiseFault c x).Inv := by
  obtain ⟨hrst, _, hrsp, _⟩ := (accepting_eq_some_iff s cw).1 ha
  exact
    { cfgValid := h.cfgValid
      bank := h.bank
      latch := hl
      haltedSilent := fun _ => hrsp
      rspAllowed := h.rspAllowed
      deliveredAllowed := h.deliveredAllowed
      oneInBlock := by simp [h.all_answered ha]
      inReset := fun hlow => by simp [hrst] at hlow
      pastAllowed := h.pastAllowed }

/-- A response R52 allows, offered with any bank of the right size, accounts for the word just accepted. -/
theorem State.Inv.respond_consume (h : s.Inv) {cw : CmdWord} (ha : s.accepting = some cw) (bank : List Bool) (r : RspWord)
    (hb : bank.length = s.ovf.length) (hr : rspOk r = true) :
    ({ s.consume cw with ovf := bank, rsp := some r }).Inv := by
  obtain ⟨hrst, hrun, _, _⟩ := (accepting_eq_some_iff s cw).1 ha
  exact
    { cfgValid := h.cfgValid
      bank := hb.trans h.bank
      latch := h.latch
      haltedSilent := fun hh => by simp [hrun] at hh
      rspAllowed := fun r' hr' => by rwa [← Option.some.inj hr']
      deliveredAllowed := h.deliveredAllowed
      oneInBlock := by simp [h.all_answered ha]
      inReset := fun hlow => by simp [hrst] at hlow
      pastAllowed := h.pastAllowed }

theorem State.Inv.acceptCommand (h : s.Inv) {cw : CmdWord} (ha : s.accepting = some cw)
    (hx : acceptCommand cw (s.consume cw) = .next t) : t.Inv := by
  rcases acceptCommand_next_cases cw _ t hx with ⟨c, x, hl, rfl⟩ | ⟨i, _, hans⟩
  · exact h.raiseFault_consume ha c x hl
  · obtain ⟨bank, r, hb, hr, rfl⟩ := hans.frame
    exact h.respond_consume ha bank r hb hr

theorem State.Inv.deliver (h : s.Inv) {r : RspWord} (ho : s.rspOffered = some r) :
    ({ s with rsp := none, delivered := s.delivered ++ [r] }).Inv := by
  obtain ⟨hrst, hrun, hrsp⟩ := (rspOffered_eq_some_iff s r).1 ho
  have counts := h.oneInBlock
  exact
    { cfgValid := h.cfgValid
      bank := h.bank
      latch := h.latch
      haltedSilent := fun _ => rfl
      rspAllowed := fun _ hr' => nomatch hr'
      deliveredAllowed := List.forall_mem_append.2 ⟨h.deliveredAllowed, by simpa using h.rspAllowed r hrsp⟩
      oneInBlock := by simpa [hrun, hrsp] using counts
      inReset := fun hlow => by simp [hrst] at hlow
      pastAllowed := h.pastAllowed }

/-- The run that is under way can be put on record at any time. -/
theorem State.Inv.runRecord_ok (h : s.Inv) : s.runRecord.ok s.cfg = true := by
  have counts := h.oneInBlock
  have hd : s.delivered.all rspOk = true := List.all_eq_true.2 h.deliveredAllowed
  have halted_le : s.halted.toNat ≤ (s.rsp.isSome || s.halted).toNat := by
    cases s.rsp.isSome
    case false => exact le_rfl
    case true => exact Bool.toNat_le _
  have in_block_le : (s.rsp.isSome || s.halted).toNat ≤ 1 := Bool.toNat_le _
  have halted_unanswered : s.delivered.length + s.halted.toNat ≤ s.accepted.length := by omega
  have one_unanswered : s.accepted.length ≤ s.delivered.length + 1 := by omega
  simp only [RunRecord.ok, Bool.and_eq_true, decide_eq_true_eq, beq_iff_eq]
  exact ⟨⟨⟨⟨halted_unanswered, one_unanswered⟩, h.latch⟩, hd⟩, h.bank⟩

theorem State.Inv.pastAfterReset_ok (h : s.Inv) : ∀ r ∈ s.pastAfterReset, r.ok s.cfg = true := by
  cases hr : s.rstN
  case false => rw [pastAfterReset_of_low s hr]; exact h.pastAllowed
  case true =>
    rw [pastAfterReset_of_high s hr]
    exact List.forall_mem_append.2 ⟨h.pastAllowed, by simpa using h.runRecord_ok⟩

theorem State.Inv.assertReset (h : s.Inv) : s.assertReset.Inv where
  cfgValid := h.cfgValid
  bank := resetBank_length s.cfg
  latch := rfl
  haltedSilent := fun _ => rfl
  rspAllowed := fun _ hr => nomatch hr
  deliveredAllowed := fun _ hr => nomatch hr
  oneInBlock := rfl
  inReset := fun _ => by simp [heldInReset]
  pastAllowed := h.pastAfterReset_ok

theorem State.Inv.releaseReset (h : s.Inv) : s.releaseReset.Inv :=
  { h with inReset := fun hlow => nomatch hlow }

theorem State.Inv.playMove (h : s.Inv) : s.playMove.Inv := by
  rcases playMove_cases s with hp | ⟨cw, ms, _, _, hp⟩ | ⟨r, ms, _, ho, hp⟩ | ⟨ms, _, hp⟩ | ⟨ms, _, hp⟩ <;> rw [hp]
  · exact h
  · exact h.with_requester (some cw) ms
  · exact (h.deliver ho).with_requester s.req ms
  · exact h.assertReset.with_requester s.req ms
  · exact h.releaseReset.with_requester s.req ms

theorem State.resetWith_inv (c : Config) (hv : c.valid = true) : (State.resetWith c).Inv where
  cfgValid := hv
  bank := resetBank_length c
  latch := rfl
  haltedSilent := fun _ => rfl
  rspAllowed := fun _ hr => nomatch hr
  deliveredAllowed := fun _ hr => nomatch hr
  oneInBlock := rfl
  inReset := fun hlow => nomatch hlow
  pastAllowed := fun _ hr => nomatch hr

end invariant

end Sys2Proof.Machine

namespace Sys2Proof.Spec
open Sys2Proof.Machine

/-! The record of a run, as the statements write it out (70_reset_and_hazards.md R188) -/

theorem runRecord_eq_recordOf (s : State) (ms : List Move) (h : s.moves = .resetLow :: ms) :
    s.runRecord = recordOf s := by
  rw [recordOf, ← runRecord_unsent_of_resetLow s ms h]
  rfl

theorem pastAfterReset_eq_recordOf (s : State) (ms : List Move) (h : s.moves = .resetLow :: ms) :
    s.pastAfterReset = if s.rstN then s.past ++ [recordOf s] else s.past := by
  rw [State.pastAfterReset, runRecord_eq_recordOf s ms h]

/-! The statements -/

/-- Settles O36: a step runs an accepted word, which clears only as WROVF 0 on the context, or makes the requester's move, of which
only reset touches the bank. -/
theorem onlyWrovfAndResetClear : Obligations.OnlyWrovfAndResetClear := by
  intro s t k h h1 h0
  obtain ⟨hv, _, ⟨cw, ha, hx⟩ | ⟨_, rfl⟩⟩ := step_next_cases s t h
  · obtain ⟨hrst, hrun, hrsp, hreq⟩ := (accepting_eq_some_iff s cw).1 ha
    obtain ⟨l, hd, hk⟩ := acceptCommand_clears cw (s.consume cw) t k hx h1 h0
    exact .inl ⟨cw, l, ⟨hv, hrst, hrun, hrsp, hreq⟩, hd, hk⟩
  · cases hr : s.resetNext
    case true => exact .inr ((resetNext_iff s).1 hr)
    case false =>
      rw [playMove_ovf s hr, h1] at h0
      cases h0

/-- Settles O59, operation by operation along the two things a step can do. -/
theorem stepKeepsInv : Obligations.StepKeepsInv := by
  intro s t hi h
  obtain ⟨_, _, ⟨cw, ha, hx⟩ | ⟨_, rfl⟩⟩ := step_next_cases s t h
  · exact hi.acceptCommand ha hx
  · exact hi.playMove

/-- Settles O35: the flag update only ORs, in the bank and, in EXPLICIT mode, from `ovf_in` into the response. -/
theorem flagIsSticky : Obligations.FlagIsSticky := by
  refine fun i s t hi h => ⟨fun k h1 => exec_arith_keeps_set i s t k hi h h1, fun hm hin ht => ?_⟩
  obtain ⟨r, _, rfl⟩ := exec_arith_answered i s t hi h ht
  have flag_set : s.flagAfter i.loc r.event = true := by rw [flagAfter_explicit s i.loc r.event hm, hin, Bool.true_or]
  exact ⟨_, s.answer_rsp i.loc r, (rspFlag_packRsp _ _ _).trans flag_set⟩

/-- Settles O39: in EXPLICIT mode each of the three things a command can do is written without the bank. -/
theorem explicitModeIsStateless : Obligations.ExplicitModeIsStateless := by
  intro i s₁ s₂ t₁ t₂ hcfg hm₁ hrun₁ hrun₂ h₁ h₂
  have hm₂ : s₂.cfg.flagMode = .explicit := hcfg ▸ hm₁
  cases hi : i.isFlagAccess
  case true =>
    obtain rfl := Host.Outcome.next.inj (h₁.symm.trans (exec_explicit_flagAccess i s₁ hm₁ hi))
    obtain rfl := Host.Outcome.next.inj (h₂.symm.trans (exec_explicit_flagAccess i s₂ hm₂ hi))
    simp
  case false =>
    cases hr : arithReply i s₁.cfg.errPolicy s₁.cfg.rndSh with
    | some r =>
      obtain rfl := Host.Outcome.next.inj (h₁.symm.trans (exec_explicit_of_reply i s₁ hm₁ hi r hr))
      obtain rfl := Host.Outcome.next.inj (h₂.symm.trans (exec_explicit_of_reply i s₂ hm₂ hi r (hcfg ▸ hr)))
      simp [hrun₁, hrun₂]
    | none =>
      obtain rfl := Host.Outcome.next.inj (h₁.symm.trans (exec_explicit_of_no_reply i s₁ hm₁ hi hr))
      obtain rfl := Host.Outcome.next.inj (h₂.symm.trans (exec_explicit_of_no_reply i s₂ hm₂ hi (hcfg ▸ hr)))
      simp

/-- Settles O49: with no word accepted the step is the requester's reset move. -/
theorem resetPulse : Obligations.ResetPulse := by
  constructor
  · intro s ms hv ha hm
    rw [step_of_no_accept s hv (.inr ((resetNext_iff s).2 ⟨ms, hm⟩)) ha, playMove_of_resetLow s ms hm,
      ← pastAfterReset_eq_recordOf s ms hm]
    rfl
  · intro s ms hv hrun ha hm
    rw [step_of_no_accept s hv (.inl hrun) ha, playMove_of_resetHigh s ms hm]
    rfl

/-- Settles O60; State.reset is the reset state of `Config.default`. -/
theorem resetHasInv : Obligations.ResetHasInv :=
  ⟨State.resetWith_inv, State.resetWith_inv Config.default rfl⟩

end Sys2Proof.Spec
end

/-! Facts that the statements of 20_memory.md need (R42, R45), and the theorems that settle them. -/

section
namespace Sys2Proof.Machine

/-! What a command does to its own context in SHARED mode, and to nothing else of the bank (10_state.md R23, 20_memory.md R45) -/

/-- The flag a command leaves on its context and the response word it offers, from the flag `f` it finds there; `none` where DIV_S
meets a domain error under ABORT. -/
def contextEffect (i : Instr) (ep : ErrPolicy) (rndSh : Nat) (f : Bool) : Option (Bool × RspWord) :=
  match i with
  | .rdovf _ => some (f, packRsp f false (bit32 f))
  | .wrovf _ v => some (v, packRsp v false (bit32 f))
  | i => (arithReply i ep rndSh).map fun r => (f || r.event, packRsp (f || r.event) r.event r.result)

theorem contextEffect_arith (i : Instr) (ep : ErrPolicy) (rndSh : Nat) (f : Bool) (hi : i.isFlagAccess = false) :
    contextEffect i ep rndSh f =
      (arithReply i ep rndSh).map fun r => (f || r.event, packRsp (f || r.event) r.event r.result) := by
  cases i
  case rdovf => cases hi
  case wrovf => cases hi
  all_goals rfl

/-- The state after a command on an existing context of a SHARED block, from its effect on that context. -/
def State.applyEffect (s : State) (i : Instr) : Option (Bool × RspWord) → State
  | some (flag, r) => { s.writeOvf i.loc.ctx flag with rsp := some r }
  | none => s.raiseFault .divDomain (divInfo i)

section applyEffect
variable (s : State) (i : Instr) (flag : Bool) (r : RspWord)

@[simp] theorem applyEffect_none_halted : (s.applyEffect i none).halted = true := rfl
@[simp] theorem applyEffect_none_ovf : (s.applyEffect i none).ovf = s.ovf := rfl
@[simp] theorem applyEffect_some_halted : (s.applyEffect i (some (flag, r))).halted = s.halted := rfl
@[simp] theorem applyEffect_some_rsp : (s.applyEffect i (some (flag, r))).rsp = some r := rfl

theorem applyEffect_own_flag (hk : i.loc.ctx.toNat < s.ovf.length) :
    (s.applyEffect i (some (flag, r))).ovf.getD i.loc.ctx.toNat false = flag :=
  readOvf_writeOvf_same s i.loc.ctx flag hk

theorem applyEffect_other_flag (k : Nat) (hk : k ≠ i.loc.ctx.toNat) :
    (s.applyEffect i (some (flag, r))).ovf.getD k false = s.ovf.getD k false := by
  show (s.ovf.set i.loc.ctx.toNat flag).getD k false = _
  simp only [List.getD_eq_getElem?_getD, List.getElem?_set_ne hk.symm]

end applyEffect

/-- Writing back the flag that is there changes nothing. -/
theorem writeOvf_readOvf (s : State) (k : BitVec 8) : s.writeOvf k (s.readOvf k) = s := by
  have same_bank : s.ovf.set k.toNat (s.ovf.getD k.toNat false) = s.ovf := by
    by_cases hk : k.toNat < s.ovf.length
    · rw [List.getD_eq_getElem _ _ hk, List.set_getElem_self]
    · exact List.set_eq_of_length_le (Nat.le_of_not_lt hk)
  rw [State.writeOvf, State.readOvf, same_bank]

/-- In SHARED mode a command on an existing context reads of the bank only that context's flag, and writes only that. -/
theorem exec_shared (i : Instr) (s : State) (hm : s.cfg.flagMode = .shared) (hk : i.loc.ctx.toNat < s.cfg.nctx) :
    exec i s = .next (s.applyEffect i
      (contextEffect i s.cfg.errPolicy s.cfg.rndSh (s.readOvf i.loc.ctx))) := by
  have present : s.badContext i.loc = false := (badContext_eq_false_iff s i.loc).2 fun _ => hk
  cases hi : i.isFlagAccess
  case false =>
    rw [contextEffect_arith i _ _ _ hi]
    rcases exec_arith_cases i s hi with ⟨absent, _⟩ | ⟨_, r, hr, hx⟩ | ⟨_, hr, hx⟩
    · simp [present] at absent
    · rw [hx, hr, State.answer, updateFlag_shared s _ _ hm, flagAfter_shared s _ _ hm]
      rfl
    · rw [hx, hr]
      rfl
  case true =>
    rcases exec_flagAccess_cases i s hi with ⟨explicit, _⟩ | ⟨_, absent, _⟩ | ⟨_, _, ⟨l, rfl, hx⟩ | ⟨l, v, rfl, hx⟩⟩
    · simp [hm] at explicit
    · simp [present] at absent
    · rw [hx]
      show _ = Host.Outcome.next ((s.writeOvf l.ctx (s.readOvf l.ctx)).respond _ _ _)
      rw [writeOvf_readOvf]
      rfl
    · exact hx

/-! What a step does to the responses that were delivered (20_memory.md R42, 70_reset_and_hazards.md R181) -/

/-- Executing a command delivers nothing and ends no run. -/
theorem acceptCommand_keeps_delivered (cw : CmdWord) (s t : State) (h : acceptCommand cw s = .next t) :
    t.delivered = s.delivered ∧ t.past = s.past := by
  rcases acceptCommand_next_cases cw s t h with ⟨c, x, _, rfl⟩ | ⟨i, _, hans⟩
  · exact ⟨rfl, rfl⟩
  · obtain ⟨bank, r, _, _, rfl⟩ := hans.frame
    exact ⟨rfl, rfl⟩

/-- While reset is low no response of the current run is on the requester's side. -/
theorem State.Inv.delivered_of_low {s : State} (h : s.Inv) (hlow : s.rstN = false) : s.delivered = [] := by
  have held := h.inReset hlow
  simp only [heldInReset, Bool.and_eq_true, List.isEmpty_iff] at held
  exact held.2

end Sys2Proof.Machine

namespace Sys2Proof.Spec
open Sys2Proof.Machine

/-- Settles O38: the two states give the command's context the same effect, which is all that reaches the response, the latch and
the bank. -/
theorem contextsAreIsolated : Obligations.ContextsAreIsolated := by
  intro i s₁ s₂ t₁ t₂ hi₁ hi₂ hcfg hm hk hrun₁ hrun₂ hflag h₁ h₂
  have in_bank : ∀ s : State, s.Inv → s.cfg = s₁.cfg → i.loc.ctx.toNat < s.ovf.length := by
    intro s hs hc
    rwa [hs.bank, hc, bankSize, hm]
  have same_effect : contextEffect i s₂.cfg.errPolicy s₂.cfg.rndSh (s₂.readOvf i.loc.ctx) =
      contextEffect i s₁.cfg.errPolicy s₁.cfg.rndSh (s₁.readOvf i.loc.ctx) := by
    rw [← hcfg, State.readOvf, State.readOvf, hflag]
  obtain rfl := Host.Outcome.next.inj (h₁.symm.trans (exec_shared i s₁ hm hk))
  obtain rfl := Host.Outcome.next.inj (h₂.symm.trans (exec_shared i s₂ (hcfg ▸ hm) (hcfg ▸ hk)))
  rw [same_effect]
  cases contextEffect i s₁.cfg.errPolicy s₁.cfg.rndSh (s₁.readOvf i.loc.ctx) with
  | none => exact ⟨by simp, by simp, by simpa using hflag, by simp⟩
  | some p =>
    obtain ⟨flag, r⟩ := p
    have own₁ := applyEffect_own_flag s₁ i flag r (in_bank s₁ hi₁ rfl)
    have own₂ := applyEffect_own_flag s₂ i flag r (in_bank s₂ hi₂ hcfg.symm)
    exact ⟨by simp [hrun₁, hrun₂], by simp, own₁.trans own₂.symm, applyEffect_other_flag s₁ i flag r⟩

/-- Settles O53: of the two things a step can do only a move of the requester delivers, by taking the response on the port, and only
pulling reset ends a run; a reset that is low already finds nothing delivered. -/
theorem responsesInOrder : Obligations.ResponsesInOrder := by
  intro s t hi h
  obtain ⟨_, _, ⟨cw, _, hx⟩ | ⟨_, rfl⟩⟩ := step_next_cases s t h
  · exact .inl (acceptCommand_keeps_delivered cw (s.consume cw) t hx)
  rcases playMove_cases s with hp | ⟨cw, ms, _, _, hp⟩ | ⟨r, ms, _, ho, hp⟩ | ⟨ms, hm, hp⟩ | ⟨ms, _, hp⟩ <;> rw [hp]
  · exact .inl ⟨rfl, rfl⟩
  · exact .inl ⟨rfl, rfl⟩
  · obtain ⟨_, _, hrsp⟩ := (rspOffered_eq_some_iff s r).1 ho
    exact .inr (.inl ⟨r, hrsp, rfl, rfl, rfl, rfl⟩)
  · cases hrst : s.rstN
    case false => exact .inl ⟨(hi.delivered_of_low hrst).symm, pastAfterReset_of_low s hrst⟩
    case true =>
      have recorded : s.pastAfterReset = s.past ++ [recordOf s] := by
        rw [pastAfterReset_of_high s hrst, runRecord_eq_recordOf s ms hm]
      exact .inr (.inr ⟨⟨ms, hm⟩, rfl, rfl, recorded⟩)
  · exact .inl ⟨rfl, rfl⟩

end Sys2Proof.Spec
end

/-! Facts that the statements of 30_encoding.md need (R50 to R62), and the theorems that settle them. -/

section
namespace Sys2Proof

/-! Decoding an encoded command: each row of the table reads its operands back from where the encoder put them (R53, R55) -/

@[simp] theorem encode_a16 (i : Instr) : CmdWord.a16 (encode i) = i.fields.1.setWidth 16 := by
  rw [CmdWord.a16, encode_a]

@[simp] theorem encode_b16 (i : Instr) : CmdWord.b16 (encode i) = i.fields.2.1.setWidth 16 := by
  rw [CmdWord.b16, encode_b]

theorem decode_encode (i : Instr) : decode (encode i) = .ok i := by
  unfold decode
  rw [encode_rsv0, encode_op, encode_loc, encode_a, encode_b, encode_c, encode_a16, encode_b16]
  cases i <;> simp [Instr.opcode, Instr.loc, Instr.fields]

/-! The words that are no command (R56, R57) -/

theorem opcode_assigned (i : Instr) : 1 ≤ i.opcode.toNat ∧ i.opcode.toNat ≤ 0x1A := by
  cases i <;> simp [Instr.opcode]

theorem decode_op (w : CmdWord) (i : Instr) (h : decode w = .ok i) : CmdWord.op w = i.opcode := by
  rw [op_eq_head, decode_head w i h, Instr.head, packHead_op]

theorem decode_of_assigned (w : CmdWord) (hr : CmdWord.rsv0 w = false) (h1 : 1 ≤ (CmdWord.op w).toNat)
    (h2 : (CmdWord.op w).toNat ≤ 0x1A) : ∃ i, decode w = .ok i := by
  unfold decode
  rw [hr]
  generalize (CmdWord.op w).toNat = n at h1 h2
  interval_cases n <;> exact ⟨_, rfl⟩

theorem decode_eq_ok_iff (w : CmdWord) :
    (∃ i, decode w = .ok i) ↔ CmdWord.rsv0 w = false ∧ 1 ≤ (CmdWord.op w).toNat ∧ (CmdWord.op w).toNat ≤ 0x1A := by
  constructor
  · rintro ⟨i, h⟩
    rw [decode_op w i h]
    exact ⟨rsv0_of_decode w i h, opcode_assigned i⟩
  · rintro ⟨hr, h1, h2⟩
    exact decode_of_assigned w hr h1 h2

theorem decode_eq_error_iff (w : CmdWord) :
    (∃ r, decode w = .error r) ↔
      CmdWord.rsv0 w = true ∨ (CmdWord.op w).toNat = 0 ∨ 0x1B ≤ (CmdWord.op w).toNat := by
  have total : (∃ r, decode w = .error r) ↔ ¬ ∃ i, decode w = .ok i := by
    cases decode w <;> simp
  rw [total, decode_eq_ok_iff, not_and_or, Bool.not_eq_false]
  refine or_congr_right ?_
  omega

/-! A field of a masked word (R51): where the mask has every bit of the field, the field is the word's -/

section mask
variable {w m : CmdWord}

theorem extract_and_of_full {n : Nat} (x y : BitVec n) (k len : Nat) (h : y.extractLsb' k len = BitVec.allOnes len) :
    (x &&& y).extractLsb' k len = x.extractLsb' k len := by
  rw [BitVec.extractLsb'_and, h, BitVec.and_allOnes]

theorem head_and (h : CmdWord.head m = BitVec.allOnes 16) : CmdWord.head (w &&& m) = CmdWord.head w :=
  extract_and_of_full w m 80 16 h

theorem op_and (h : CmdWord.op m = BitVec.allOnes 6) : CmdWord.op (w &&& m) = CmdWord.op w :=
  extract_and_of_full w m 90 6 h

theorem ctx_and (h : CmdWord.ctx m = BitVec.allOnes 8) : CmdWord.ctx (w &&& m) = CmdWord.ctx w :=
  extract_and_of_full w m 80 8 h

theorem ovfIn_and (h : CmdWord.ovfIn m = true) : CmdWord.ovfIn (w &&& m) = CmdWord.ovfIn w := by
  rw [CmdWord.ovfIn, BitVec.getLsbD_and, ← CmdWord.ovfIn, ← CmdWord.ovfIn, h, Bool.and_true]

theorem rsv0_and (h : CmdWord.rsv0 m = true) : CmdWord.rsv0 (w &&& m) = CmdWord.rsv0 w := by
  rw [CmdWord.rsv0, BitVec.getLsbD_and, ← CmdWord.rsv0, ← CmdWord.rsv0, h, Bool.and_true]

theorem a_and (h : CmdWord.a m = BitVec.allOnes 32) : CmdWord.a (w &&& m) = CmdWord.a w :=
  extract_and_of_full w m 48 32 h

theorem b_and (h : CmdWord.b m = BitVec.allOnes 32) : CmdWord.b (w &&& m) = CmdWord.b w :=
  extract_and_of_full w m 16 32 h

theorem c_and (h : CmdWord.c m = BitVec.allOnes 16) : CmdWord.c (w &&& m) = CmdWord.c w :=
  extract_and_of_full w m 0 16 h

theorem a16_and (h : CmdWord.a16 m = BitVec.allOnes 16) : CmdWord.a16 (w &&& m) = CmdWord.a16 w := by
  have fields : CmdWord.a16 (w &&& m) = CmdWord.a16 w &&& CmdWord.a16 m := by
    simp [CmdWord.a16, CmdWord.a, BitVec.extractLsb'_and, BitVec.setWidth_and]
  rw [fields, h, BitVec.and_allOnes]

theorem b16_and (h : CmdWord.b16 m = BitVec.allOnes 16) : CmdWord.b16 (w &&& m) = CmdWord.b16 w := by
  have fields : CmdWord.b16 (w &&& m) = CmdWord.b16 w &&& CmdWord.b16 m := by
    simp [CmdWord.b16, CmdWord.b, BitVec.extractLsb'_and, BitVec.setWidth_and]
  rw [fields, h, BitVec.and_allOnes]

theorem a_bit_and (h : (CmdWord.a m).getLsbD 0 = true) :
    (CmdWord.a (w &&& m)).getLsbD 0 = (CmdWord.a w).getLsbD 0 := by
  rw [CmdWord.a, BitVec.extractLsb'_and, BitVec.getLsbD_and, ← CmdWord.a, ← CmdWord.a, h, Bool.and_true]

theorem loc_and (h1 : CmdWord.ovfIn m = true) (h2 : CmdWord.ctx m = BitVec.allOnes 8) :
    CmdWord.loc (w &&& m) = CmdWord.loc w := by
  rw [CmdWord.loc, ovfIn_and h1, ctx_and h2, ← CmdWord.loc]

/-- Words that a mask makes equal agree on every field that the mask leaves as it was. -/
theorem field_eq_of_and_eq {α : Type} (f : CmdWord → α) {w v m : CmdWord} (hf : ∀ x, f (x &&& m) = f x)
    (h : w &&& m = v &&& m) : f v = f w := by
  rw [← hf v, ← h, hf w]

end mask

/-! The same command sent with another flag location (R51) -/

/-- The command with its operation and operands kept and its flag location replaced. -/
def Instr.withLoc (l : FlagLoc) : Instr → Instr
  | .saturate _ w => .saturate l w
  | .add _ a b => .add l a b
  | .sub _ a b => .sub l a b
  | .negate _ a => .negate l a
  | .lAdd _ a b => .lAdd l a b
  | .lSub _ a b => .lSub l a b
  | .lNegate _ a => .lNegate l a
  | .mult _ a b => .mult l a b
  | .multR _ a b => .multR l a b
  | .lMult _ a b => .lMult l a b
  | .lMac _ acc x y => .lMac l acc x y
  | .lMsu _ acc x y => .lMsu l acc x y
  | .lMacNs _ acc x y => .lMacNs l acc x y
  | .lMsuNs _ acc x y => .lMsuNs l acc x y
  | .macR _ acc x y => .macR l acc x y
  | .msuR _ acc x y => .msuR l acc x y
  | .shl _ a n => .shl l a n
  | .shr _ a n => .shr l a n
  | .lShl _ a n => .lShl l a n
  | .lShr _ a n => .lShr l a n
  | .lShrR _ a n => .lShrR l a n
  | .normS _ a => .normS l a
  | .normL _ a => .normL l a
  | .divS _ num den => .divS l num den
  | .rdovf _ => .rdovf l
  | .wrovf _ v => .wrovf l v

/-- Two flag locations name the same flag under the parameters' flag mode: `ctx` is read in SHARED mode and `ovf_in` in EXPLICIT
mode (R51, R58). -/
def SameFlag (c : Config) (l l' : FlagLoc) : Prop :=
  match c.flagMode with
  | .shared => l'.ctx = l.ctx
  | .explicit => l'.ovfIn = l.ovfIn

theorem sameFlag_shared (c : Config) (l l' : FlagLoc) (hm : c.flagMode = .shared) :
    SameFlag c l l' ↔ l'.ctx = l.ctx := by
  simp [SameFlag, hm]

theorem sameFlag_explicit (c : Config) (l l' : FlagLoc) (hm : c.flagMode = .explicit) :
    SameFlag c l l' ↔ l'.ovfIn = l.ovfIn := by
  simp [SameFlag, hm]

section withLoc
variable (i : Instr) (l : FlagLoc)

@[simp] theorem withLoc_loc : (i.withLoc l).loc = l := by cases i <;> rfl
@[simp] theorem withLoc_isFlagAccess : (i.withLoc l).isFlagAccess = i.isFlagAccess := by cases i <;> rfl

end withLoc

/-- A word with the same `op`, `rsv0` and operand fields as another decodes to the same command, on its own flag location. -/
theorem decode_withLoc (w v : CmdWord) (hr : CmdWord.rsv0 v = CmdWord.rsv0 w) (ho : CmdWord.op v = CmdWord.op w)
    (ha : CmdWord.a v = CmdWord.a w) (hb : CmdWord.b v = CmdWord.b w) (hc : CmdWord.c v = CmdWord.c w) :
    decode v = (decode w).map (Instr.withLoc (CmdWord.loc v)) := by
  unfold decode
  rw [hr, ho, CmdWord.a16, CmdWord.b16, ha, hb, hc, ← CmdWord.a16, ← CmdWord.b16]
  split
  · rfl
  · split <;> rfl


end Sys2Proof

namespace Sys2Proof.Spec
open Sys2Proof.Machine

/-! The bits that a row of the table reads (R53, R58): the decoder drops the others, and of a flag location the mode keeps the part
that names the flag -/

theorem head_usedMask (k : Nat) : CmdWord.head (usedMask k) = BitVec.allOnes 16 := by
  unfold usedMask
  split_ifs <;> decide

theorem head_and_usedMask (w : CmdWord) (k : Nat) : CmdWord.head (w &&& usedMask k) = CmdWord.head w :=
  head_and (head_usedMask k)

theorem loc_and_usedMask (w : CmdWord) (k : Nat) : CmdWord.loc (w &&& usedMask k) = CmdWord.loc w := by
  rw [CmdWord.loc, ovfIn_eq_head, ctx_eq_head, head_and_usedMask, ← ovfIn_eq_head, ← ctx_eq_head, ← CmdWord.loc]

theorem decode_and_usedMask (w : CmdWord) : decode (w &&& usedMask (opBits w)) = decode w := by
  have same_op : CmdWord.op (w &&& usedMask (opBits w)) = CmdWord.op w := by
    rw [op_eq_head, head_and_usedMask, ← op_eq_head]
  have same_rsv0 : CmdWord.rsv0 (w &&& usedMask (opBits w)) = CmdWord.rsv0 w := by
    rw [rsv0_eq_head, head_and_usedMask, ← rsv0_eq_head]
  unfold decode
  rw [same_op, same_rsv0, loc_and_usedMask]
  split
  · rfl
  · split
    -- the last branch: no row of the table
    case h_27 => rfl
    all_goals
      rename_i code
      have same_code : opBits w = _ := code
      simp (disch := decide) only [same_code, a_and, b_and, c_and, a16_and, b16_and, a_bit_and]

theorem modeMask_full (c : Config) :
    CmdWord.op (modeMask c) = BitVec.allOnes 6 ∧ CmdWord.rsv0 (modeMask c) = true ∧
      CmdWord.a (modeMask c) = BitVec.allOnes 32 ∧ CmdWord.b (modeMask c) = BitVec.allOnes 32 ∧
      CmdWord.c (modeMask c) = BitVec.allOnes 16 := by
  unfold modeMask
  split <;> decide

theorem sameFlag_of_modeMask (c : Config) (w v : CmdWord) (h : w &&& modeMask c = v &&& modeMask c) :
    SameFlag c (CmdWord.loc w) (CmdWord.loc v) := by
  cases hm : c.flagMode
  case shared =>
    have full : CmdWord.ctx (modeMask c) = BitVec.allOnes 8 := by rw [modeMask, hm]; decide
    exact (sameFlag_shared c _ _ hm).2 (field_eq_of_and_eq CmdWord.ctx (fun _ => ctx_and full) h)
  case explicit =>
    have full : CmdWord.ovfIn (modeMask c) = true := by rw [modeMask, hm]; decide
    exact (sameFlag_explicit c _ _ hm).2 (field_eq_of_and_eq CmdWord.ovfIn (fun _ => ovfIn_and full) h)

theorem decode_of_modeMask (c : Config) (w v : CmdWord) (h : w &&& modeMask c = v &&& modeMask c) :
    decode v = (decode w).map (Instr.withLoc (CmdWord.loc v)) := by
  obtain ⟨hop, hrsv0, ha, hb, hc⟩ := modeMask_full c
  exact decode_withLoc w v
    (field_eq_of_and_eq CmdWord.rsv0 (fun _ => rsv0_and hrsv0) h)
    (field_eq_of_and_eq CmdWord.op (fun _ => op_and hop) h)
    (field_eq_of_and_eq CmdWord.a (fun _ => a_and ha) h)
    (field_eq_of_and_eq CmdWord.b (fun _ => b_and hb) h)
    (field_eq_of_and_eq CmdWord.c (fun _ => c_and hc) h)

/-- Words that agree on every bit their operation code and the flag mode read decode alike, but for the part of the flag location
that the mode ignores. -/
theorem decode_of_used_bits (c : Config) (w v : CmdWord) (hop : opBits w = opBits v)
    (h : w &&& (usedMask (opBits w) &&& modeMask c) = v &&& (usedMask (opBits w) &&& modeMask c)) :
    decode v = (decode w).map (Instr.withLoc (CmdWord.loc v)) ∧ SameFlag c (CmdWord.loc w) (CmdWord.loc v) := by
  have masked : w &&& usedMask (opBits w) &&& modeMask c = v &&& usedMask (opBits v) &&& modeMask c := by
    rw [BitVec.and_assoc, BitVec.and_assoc, ← hop, h]
  have same_command := decode_of_modeMask c _ _ masked
  have same_flag := sameFlag_of_modeMask c _ _ masked
  rw [decode_and_usedMask, decode_and_usedMask, loc_and_usedMask] at same_command
  rw [loc_and_usedMask, loc_and_usedMask] at same_flag
  exact ⟨same_command, same_flag⟩

end Sys2Proof.Spec

namespace Sys2Proof.Machine

/-! No command reads the part of its flag location that the mode ignores, or the account of the accepted words (R53, R58); only INFO of
a decode fault keeps the flag location whole (60_exceptions.md R161) -/

section withLoc
variable (i : Instr) (l : FlagLoc)

@[simp] theorem withLoc_arithReply (ep : ErrPolicy) (rndSh : Nat) :
    arithReply (i.withLoc l) ep rndSh = arithReply i ep rndSh := by cases i <;> rfl
@[simp] theorem withLoc_divInfo : divInfo (i.withLoc l) = divInfo i := by cases i <;> rfl
@[simp] theorem withLoc_contextEffect (ep : ErrPolicy) (rndSh : Nat) (f : Bool) :
    contextEffect (i.withLoc l) ep rndSh f = contextEffect i ep rndSh f := by cases i <;> rfl

end withLoc

/-- `u` is `t` with the accepted words `acc` on account and, if it is halted, with any INFO. -/
def SameOutcome (acc : List CmdWord) (t u : State) : Prop :=
  u = { t with info := u.info, accepted := acc } ∧ (t.halted = false → u.info = t.info)

section outcome
variable (i : Instr) (l : FlagLoc) (s : State) (acc : List CmdWord)

theorem sameOutcome_account : SameOutcome acc s { s with accepted := acc } := ⟨rfl, fun _ => rfl⟩

theorem sameOutcome_raiseFault (c : Cause) (x y : BitVec 32) :
    SameOutcome acc (s.raiseFault c x) ({ s with accepted := acc }.raiseFault c y) := ⟨rfl, nofun⟩

/-- A command whose context does not exist raises BAD_CTX, whatever its operation (60_exceptions.md R166). -/
theorem exec_of_absent (h : s.badContext i.loc = true) : exec i s = .next (s.raiseBadCtx i) := by
  have hm : s.cfg.flagMode = .shared := ((badContext_eq_true_iff s i.loc).1 h).1
  cases hi : i.isFlagAccess
  case false =>
    rcases exec_arith_cases i s hi with ⟨_, hx⟩ | ⟨present, _⟩ | ⟨present, _⟩
    · exact hx
    all_goals simp [h] at present
  case true =>
    rcases exec_flagAccess_cases i s hi with ⟨explicit, _⟩ | ⟨_, _, hx⟩ | ⟨_, present, _⟩
    · simp [hm] at explicit
    · exact hx
    · simp [h] at present

theorem applyEffect_withLoc (hk : l.ctx = i.loc.ctx) (e : Option (Bool × RspWord)) :
    { s with accepted := acc }.applyEffect (i.withLoc l) e = { s.applyEffect i e with accepted := acc } := by
  cases e with
  | none => rw [State.applyEffect, withLoc_divInfo]; rfl
  | some p => rw [State.applyEffect, withLoc_loc, hk]; rfl

theorem exec_withLoc_shared (hm : s.cfg.flagMode = .shared) (hk : l.ctx = i.loc.ctx) :
    ∃ t u, exec i s = .next t ∧ exec (i.withLoc l) { s with accepted := acc } = .next u ∧ SameOutcome acc t u := by
  by_cases present : i.loc.ctx.toNat < s.cfg.nctx
  · have present' : (i.withLoc l).loc.ctx.toNat < s.cfg.nctx := by rwa [withLoc_loc, hk]
    refine ⟨_, _, exec_shared i s hm present, exec_shared (i.withLoc l) { s with accepted := acc } hm present', ?_⟩
    rw [withLoc_contextEffect, withLoc_loc, hk, applyEffect_withLoc i l s acc hk]
    exact sameOutcome_account _ acc
  · have absent : s.badContext i.loc = true := (badContext_eq_true_iff s _).2 ⟨hm, Nat.le_of_not_lt present⟩
    have absent' : { s with accepted := acc }.badContext (i.withLoc l).loc = true := by
      rw [badContext_eq_true_iff, withLoc_loc, hk]
      exact ⟨hm, Nat.le_of_not_lt present⟩
    exact ⟨_, _, exec_of_absent i s absent, exec_of_absent _ _ absent', sameOutcome_raiseFault s acc _ _ _⟩

theorem exec_withLoc_explicit (hm : s.cfg.flagMode = .explicit) (ho : l.ovfIn = i.loc.ovfIn) :
    ∃ t u, exec i s = .next t ∧ exec (i.withLoc l) { s with accepted := acc } = .next u ∧ SameOutcome acc t u := by
  have reply := withLoc_arithReply i l s.cfg.errPolicy s.cfg.rndSh
  have access := withLoc_isFlagAccess i l
  cases hi : i.isFlagAccess
  case true =>
    exact ⟨_, _, exec_explicit_flagAccess i s hm hi,
      exec_explicit_flagAccess (i.withLoc l) { s with accepted := acc } hm (access.trans hi),
      sameOutcome_raiseFault s acc _ _ _⟩
  case false =>
    cases hr : arithReply i s.cfg.errPolicy s.cfg.rndSh with
    | some r =>
      refine ⟨_, _, exec_explicit_of_reply i s hm hi r hr,
        exec_explicit_of_reply (i.withLoc l) { s with accepted := acc } hm (access.trans hi) r (reply.trans hr), ?_⟩
      rw [withLoc_loc, ho]
      exact sameOutcome_account _ acc
    | none =>
      exact ⟨_, _, exec_explicit_of_no_reply i s hm hi hr,
        exec_explicit_of_no_reply (i.withLoc l) { s with accepted := acc } hm (access.trans hi) (reply.trans hr),
        sameOutcome_raiseFault s acc _ _ _⟩

theorem exec_withLoc (h : SameFlag s.cfg i.loc l) :
    ∃ t u, exec i s = .next t ∧ exec (i.withLoc l) { s with accepted := acc } = .next u ∧ SameOutcome acc t u := by
  cases hm : s.cfg.flagMode
  · exact exec_withLoc_shared i l s acc hm ((sameFlag_shared _ _ _ hm).1 h)
  · exact exec_withLoc_explicit i l s acc hm ((sameFlag_explicit _ _ _ hm).1 h)

theorem acceptCommand_withLoc (w v : CmdWord) (hd : decode v = (decode w).map (Instr.withLoc (CmdWord.loc v)))
    (h : SameFlag s.cfg (CmdWord.loc w) (CmdWord.loc v)) :
    ∃ t u, acceptCommand w s = .next t ∧ acceptCommand v { s with accepted := acc } = .next u ∧
      SameOutcome acc t u := by
  cases hw : decode w with
  | error r =>
    rw [hw] at hd
    exact ⟨_, _, acceptCommand_of_reject s w r hw, acceptCommand_of_reject _ v r hd, sameOutcome_raiseFault s acc _ _ _⟩
  | ok i =>
    rw [hw] at hd
    rw [acceptCommand_of_decode s w i hw, acceptCommand_of_decode _ v _ hd]
    exact exec_withLoc i (CmdWord.loc v) s acc (by rwa [decode_loc w i hw])

end outcome

/-- Executing a command puts no word on the account. -/
theorem acceptCommand_keeps_accepted (cw : CmdWord) (s t : State) (h : acceptCommand cw s = .next t) :
    t.accepted = s.accepted := by
  rcases acceptCommand_next_cases cw s t h with ⟨c, x, _, rfl⟩ | ⟨i, _, hans⟩
  · rfl
  · obtain ⟨bank, r, _, _, rfl⟩ := hans.frame
    rfl

/-! The requester's moves, one by one (R50, 70_reset_and_hazards.md R189) -/

section moves
variable (s : State) (ms : List Move)

/-- A response on the port keeps the next word waiting. -/
theorem accepting_of_pending (r : RspWord) (h : s.rsp = some r) : s.accepting = none := by
  simp [State.accepting, State.reqReady, h]

theorem accepting_of_no_offer (h : s.req = none) : s.accepting = none := by
  simp [State.accepting, h]

theorem playMove_of_nil (h : s.moves = []) : s.playMove = s := by
  simp [State.playMove, h]

theorem playMove_of_offer (w : CmdWord) (h : s.moves = .offer w :: ms) (hq : s.req = none) :
    s.playMove = { s with req := some w, moves := ms } := by
  simp [State.playMove, h, hq]

theorem playMove_of_take (r : RspWord) (h : s.moves = .take :: ms) (ho : s.rspOffered = some r) :
    s.playMove = { s with rsp := none, delivered := s.delivered ++ [r], moves := ms } := by
  simp [State.playMove, h, ho, s.deliver_of_offered r ho]

end moves

/-! The pseudo-commands (R61, R62): the expansion, the row it names, and that row's word -/

section pseudo
variable (env : AsmEnv) (k : Nat)

theorem expandPseudo_clrovf :
    expandPseudo { mnemonic := "CLROVF", ctx := k } = { mnemonic := "WROVF", operands := [.dec 0], ctx := k } := rfl

theorem expandPseudo_setovf :
    expandPseudo { mnemonic := "SETOVF", ctx := k } = { mnemonic := "WROVF", operands := [.dec 1], ctx := k } := rfl

/-- The last row of the table (R55). -/
def wrovfRow : AsmRow := AsmRow.mk "WROVF" "WROVF" 0x1A .bit .none .none .bit

theorem row_wrovf (os : List AsmOperand) :
    AsmLine.row { mnemonic := "WROVF", operands := os, ctx := k } = some wrovfRow := by
  have last_row : (asmTable.find? fun r => r.mnemonic == "WROVF" || r.docName == "WROVF") = some wrovfRow := by decide
  exact last_row

/-- A line of WROVF with the operand 0 or 1 is that command's word. -/
theorem assembleRow_wrovf (ctx : BitVec 8) (v : Bool) :
    assembleRow env wrovfRow { mnemonic := "WROVF", operands := [.dec v.toInt], ctx := ctx.toNat } =
      some (encode (.wrovf ⟨false, ctx⟩ v)) := by
  have operand : AsmOperand.field env .bit 32 (.dec v.toInt) = some ((BitVec.ofBool v).setWidth 32) := by
    cases v <;> rfl
  have word : packCmd (packHead 0x1A false false ctx) ((BitVec.ofBool v).setWidth 32) 0 0 =
      encode (.wrovf ⟨false, ctx⟩ v) := rfl
  simpa [assembleRow, wrovfRow, takeField, operand, ctx.isLt] using word

end pseudo

end Sys2Proof.Machine

namespace Sys2Proof.Spec
open Sys2Proof.Machine

theorem taken_eq_consume (s : State) (w : CmdWord) : taken s w = s.consume w := rfl

/-- The step of a block that is about to accept a word (R50, R60). -/
theorem step_of_ready (s : State) (w : CmdWord) (h : Ready s w) : step s = acceptCommand w (taken s w) := by
  obtain ⟨hv, hrst, hrun, hrsp, hreq⟩ := h
  have accepts : s.accepting = some w := (accepting_eq_some_iff s w).2 ⟨hrst, hrun, hrsp, hreq⟩
  simp [step, hv, hrun, accepts, taken_eq_consume]

/-! The statements -/

/-- Settles O1, row by row of the table. -/
theorem decodeEncode : Obligations.DecodeEncode := decode_encode

/-- Settles O3: a decoded command carries the word's operation code, and every assigned code has a row. -/
theorem decodeRefusesExactlyReserved : Obligations.DecodeRefusesExactlyReserved := decode_eq_error_iff

/-- Settles O42: the two words decode to one operation with the same operands, on flag locations that the flag mode does not tell
apart. -/
theorem ignoredBitsDoNotMatter : Obligations.IgnoredBitsDoNotMatter := by
  intro s t u w v hready hop hbits ht hu
  have ready_v : Ready { s with req := some v } v := by
    obtain ⟨hv, hrst, hrun, hrsp, _⟩ := hready
    exact ⟨hv, hrst, hrun, hrsp, rfl⟩
  rw [step_of_ready s w hready] at ht
  rw [step_of_ready _ v ready_v] at hu
  obtain ⟨same_command, same_flag⟩ := decode_of_used_bits s.cfg w v hop hbits
  obtain ⟨t', u', ht', hu', hsame⟩ :=
    acceptCommand_withLoc (taken s w) (s.accepted ++ [v]) w v same_command same_flag
  obtain rfl := Host.Outcome.next.inj (ht'.symm.trans ht)
  obtain rfl := Host.Outcome.next.inj (hu'.symm.trans hu)
  exact ⟨acceptCommand_keeps_accepted w _ _ ht, hsame⟩

/-- Settles O4: both lines are WROVF lines once expanded. -/
theorem pseudoCommandsAssemble : Obligations.PseudoCommandsAssemble := by
  intro env k
  constructor
  · rw [assemble, expandPseudo_clrovf, row_wrovf]
    exact assembleRow_wrovf env k false
  · rw [assemble, expandPseudo_setovf, row_wrovf]
    exact assembleRow_wrovf env k true

/-- Settles O43, by the step of a block that accepts a word and the decoder's answer. -/
theorem stepRunsDecoded : Obligations.StepRunsDecoded := by
  intro s w i hready hd
  rw [step_of_ready s w hready, acceptCommand_of_decode _ w i hd]

/-- Settles O52: in all three cases no word is accepted, so the step is the requester's move. -/
theorem portHandshake : Obligations.PortHandshake := by
  refine ⟨?_, ?_, ?_⟩
  · intro s r hv hrun hrsp hm
    rw [step_of_no_accept s hv (.inl hrun) (accepting_of_pending s r hrsp), playMove_of_nil s hm]
  · intro s r ms hv hrst hrun hrsp hm
    have offered : s.rspOffered = some r := (rspOffered_eq_some_iff s r).2 ⟨hrst, hrun, hrsp⟩
    rw [step_of_no_accept s hv (.inl hrun) (accepting_of_pending s r hrsp), playMove_of_take s ms r hm offered]
  · intro s w ms hv hrun hreq hm
    rw [step_of_no_accept s hv (.inl hrun) (accepting_of_no_offer s hreq), playMove_of_offer s ms w hm hreq]

end Sys2Proof.Spec
end

/-! Facts that the statements of 40_saturation.md need (R70, R71), and the theorems that settle them. -/

section
namespace Sys2Proof

/-- A word that the encoder makes of a command decodes to that command (30_encoding.md R55). -/
theorem decode_of_encode (i : Instr) (w : CmdWord) (h : encode i = w) : decode w = .ok i := by
  rw [← h, decode_encode]

/-- The first row of the table (R55, R70). -/
theorem decode_saturate (w : CmdWord) (hr : CmdWord.rsv0 w = false) (hop : (CmdWord.op w).toNat = 0x01) :
    decode w = .ok (.saturate (CmdWord.loc w) (CmdWord.a w)) := by
  rw [decode, hr, hop]; rfl

end Sys2Proof

namespace Sys2Proof.Spec
open Sys2Proof.Machine

/-! The rules' closed forms and the model's functions: the nearest Word16, and the flag and the state an answer leaves -/

theorem clamp16_eq_sat16 (x : Int) : clamp16 x = sat16 x := by
  unfold clamp16 sat16 min16 max16; omega

theorem not_inRange16_eq_out16 (x : Int) : (!inRange16 x) = out16 x := by
  rw [Bool.eq_iff_iff, Bool.not_eq_true', inRange16_false_iff, out16, decide_eq_true_iff]; rfl

/-- The one point of narrowing (R71): the clamped value as a result field, with its event. -/
theorem reply16_saturate (x : Int) : reply16 (saturate x) = { result := BitVec.ofInt 32 (sat16 x), event := out16 x } := by
  obtain ⟨hmin, hmax⟩ := clamp16_range x
  rw [saturate_eq, reply16, result16_eq _ hmin hmax, clamp16_eq_sat16, not_inRange16_eq_out16]

theorem flagAfter_eq_newFlag (s : State) (l : FlagLoc) (e : Bool) : s.flagAfter l e = newFlag s l e := by
  cases hm : s.cfg.flagMode
  · rw [flagAfter_shared s l e hm, newFlag, hm, State.readOvf]
  · rw [flagAfter_explicit s l e hm, newFlag, hm]

theorem answer_eq_answered (s : State) (l : FlagLoc) (x : Int) (e : Bool) :
    s.answer l { result := BitVec.ofInt 32 x, event := e } = answered s l x e := by
  rw [State.answer, updateFlag_frame, State.updateFlag_ovf, flagAfter_eq_newFlag]; rfl

/-- An arithmetic command whose reply is the integer `x` with the event `e` is answered with them on a block that accepts it. -/
theorem exec_answered (i : Instr) (s : State) (x : Int) (e : Bool) (hi : i.isFlagAccess = false) (ha : Accepts s i.loc)
    (hr : arithReply i s.cfg.errPolicy s.cfg.rndSh = some { result := BitVec.ofInt 32 x, event := e }) :
    exec i s = .next (answered s i.loc x e) := by
  obtain ⟨_, context⟩ := ha
  have present : s.badContext i.loc = false := (badContext_eq_false_iff s i.loc).2 context
  rw [exec_eq_arithReply i s hi, hr, ← answer_eq_answered]
  exact runArith_of_present i _ s present

/-! The statements -/

/-- Settles O5, by the row of the decoder and the reply of the narrowing function. -/
theorem saturateResult : Obligations.SaturateResult := by
  refine ⟨decode_saturate, fun loc wide s accepts => ?_⟩
  exact exec_answered (.saturate loc wide) s _ _ rfl accepts (congrArg some (reply16_saturate wide.toInt))

/-- Settles O2: each printed word is the encoder's word of its command. -/
theorem printedWordsDecode : Obligations.PrintedWordsDecode := by
  refine ⟨?_, ?_, ?_, ?_, ?_, ?_, ?_⟩ <;> exact decode_of_encode _ _ (by decide)

end Sys2Proof.Spec
end

/-! Facts that the statements of 41_additive.md need (R75 to R81), and the theorems that settle them. -/

section
namespace Sys2Proof.Spec
open Sys2Proof.Machine

/-! How the additive commands' words are read: a Word16 operand is the low half of its field (R53), each code is its row of R55 -/

theorem a16_eq_extract (w : CmdWord) : CmdWord.a16 w = w.extractLsb' 48 16 := by
  ext k hk
  simp [CmdWord.a16, CmdWord.a, show k < 32 by omega]

theorem b16_eq_extract (w : CmdWord) : CmdWord.b16 w = w.extractLsb' 16 16 := by
  ext k hk
  simp [CmdWord.b16, CmdWord.b, show k < 32 by omega]

theorem reads_add : Reads 0x02 fun w => .add (locBits w) (w.extractLsb' 48 16) (w.extractLsb' 16 16) := by
  intro w (hr : CmdWord.rsv0 w = false) (hop : (CmdWord.op w).toNat = 0x02)
  rw [decode, hr, hop, a16_eq_extract, b16_eq_extract]; rfl

theorem reads_sub : Reads 0x03 fun w => .sub (locBits w) (w.extractLsb' 48 16) (w.extractLsb' 16 16) := by
  intro w (hr : CmdWord.rsv0 w = false) (hop : (CmdWord.op w).toNat = 0x03)
  rw [decode, hr, hop, a16_eq_extract, b16_eq_extract]; rfl

theorem reads_negate : Reads 0x04 fun w => .negate (locBits w) (w.extractLsb' 48 16) := by
  intro w (hr : CmdWord.rsv0 w = false) (hop : (CmdWord.op w).toNat = 0x04)
  rw [decode, hr, hop, a16_eq_extract]; rfl

theorem reads_lAdd : Reads 0x05 fun w => .lAdd (locBits w) (w.extractLsb' 48 32) (w.extractLsb' 16 32) := by
  intro w (hr : CmdWord.rsv0 w = false) (hop : (CmdWord.op w).toNat = 0x05)
  rw [decode, hr, hop]; rfl

theorem reads_lSub : Reads 0x06 fun w => .lSub (locBits w) (w.extractLsb' 48 32) (w.extractLsb' 16 32) := by
  intro w (hr : CmdWord.rsv0 w = false) (hop : (CmdWord.op w).toNat = 0x06)
  rw [decode, hr, hop]; rfl

theorem reads_lNegate : Reads 0x07 fun w => .lNegate (locBits w) (w.extractLsb' 48 32) := by
  intro w (hr : CmdWord.rsv0 w = false) (hop : (CmdWord.op w).toNat = 0x07)
  rw [decode, hr, hop]; rfl

/-! The rules' closed forms at 32 bits: the nearest Word32 and the result field that holds it -/

theorem clamp32_eq_sat32 (x : Int) : clamp32 x = sat32 x := by
  unfold clamp32 sat32 min32 max32; omega

theorem not_inRange32_eq_out32 (x : Int) : (!inRange32 x) = out32 x := by
  rw [Bool.eq_iff_iff, Bool.not_eq_true', inRange32_false_iff, out32, decide_eq_true_iff]; rfl

/-- The reply of a primitive that clamps at 32 bits: the nearest Word32, with the event of the exact value (R81). -/
theorem reply32_clamped (x : Int) :
    reply32 (clamp32 x, !inRange32 x) = { result := BitVec.ofInt 32 (sat32 x), event := out32 x } := by
  rw [clamp32_eq_sat32, not_inRange32_eq_out32]; rfl

/-! Negation: the least value is the only one whose negative is out of range (R77, R80) -/

theorem negate16_eq_saturate (a : Word16) : negate16 (s16 a) = saturate (-s16 a) := by
  rw [negate16_eq _ (s16_range a), saturate_eq]

theorem out16_neg (a : Word16) : out16 (-s16 a) = decide (s16 a = -32768) := by
  obtain ⟨hmin, hmax⟩ : -32768 ≤ s16 a ∧ s16 a ≤ 32767 := s16_range a
  rw [out16, decide_eq_decide]; omega

theorem out32_neg (a : Word32) : out32 (-s32 a) = decide (s32 a = -2147483648) := by
  obtain ⟨hmin, hmax⟩ : -2147483648 ≤ s32 a ∧ s32 a ≤ 2147483647 := s32_range a
  rw [out32, decide_eq_decide]; omega

/-! The reply of each additive command (R75 to R80) -/

section replies
variable (loc : FlagLoc) (ep : ErrPolicy) (rndSh : Nat)

theorem arithReply_add (a b : Word16) : arithReply (.add loc a b) ep rndSh =
    some { result := BitVec.ofInt 32 (sat16 (a.toInt + b.toInt)), event := out16 (a.toInt + b.toInt) } :=
  congrArg some (reply16_saturate (s16 a + s16 b))

theorem arithReply_sub (a b : Word16) : arithReply (.sub loc a b) ep rndSh =
    some { result := BitVec.ofInt 32 (sat16 (a.toInt - b.toInt)), event := out16 (a.toInt - b.toInt) } :=
  congrArg some (reply16_saturate (s16 a - s16 b))

theorem arithReply_negate (a : Word16) : arithReply (.negate loc a) ep rndSh =
    some { result := BitVec.ofInt 32 (sat16 (-a.toInt)), event := decide (a.toInt = -32768) } := by
  rw [arithReply, negate16_eq_saturate, reply16_saturate, out16_neg]; rfl

theorem arithReply_lAdd (a b : Word32) : arithReply (.lAdd loc a b) ep rndSh =
    some { result := BitVec.ofInt 32 (sat32 (a.toInt + b.toInt)), event := out32 (a.toInt + b.toInt) } := by
  rw [arithReply, lAdd_eq _ _ (s32_range a) (s32_range b), reply32_clamped]; rfl

theorem arithReply_lSub (a b : Word32) : arithReply (.lSub loc a b) ep rndSh =
    some { result := BitVec.ofInt 32 (sat32 (a.toInt - b.toInt)), event := out32 (a.toInt - b.toInt) } := by
  rw [arithReply, lSub_eq _ _ (s32_range a) (s32_range b), reply32_clamped]; rfl

theorem arithReply_lNegate (a : Word32) : arithReply (.lNegate loc a) ep rndSh =
    some { result := BitVec.ofInt 32 (sat32 (-a.toInt)), event := decide (a.toInt = -2147483648) } := by
  rw [arithReply, lNegate_eq _ (s32_range a), reply32_clamped, out32_neg]; rfl

end replies

/-! The statements -/

/-- Settles O6, by the row of the decoder and the narrowing of the exact sum. -/
theorem addResult : Obligations.AddResult :=
  ⟨reads_add, fun loc a b s accepts =>
    exec_answered (.add loc a b) s _ _ rfl accepts (arithReply_add loc _ _ a b)⟩

/-- Settles O7, by the row of the decoder and the narrowing of the exact difference. -/
theorem subResult : Obligations.SubResult :=
  ⟨reads_sub, fun loc a b s accepts =>
    exec_answered (.sub loc a b) s _ _ rfl accepts (arithReply_sub loc _ _ a b)⟩

/-- Settles O8: the special case of the least Word16 is the narrowing of the exact negative. -/
theorem negateResult : Obligations.NegateResult :=
  ⟨reads_negate, fun loc a s accepts =>
    exec_answered (.negate loc a) s _ _ rfl accepts (arithReply_negate loc _ _ a)⟩

/-- Settles O9: the sign test finds exactly the sums out of range (R81). -/
theorem lAddResult : Obligations.LAddResult :=
  ⟨reads_lAdd, fun loc a b s accepts =>
    exec_answered (.lAdd loc a b) s _ _ rfl accepts (arithReply_lAdd loc _ _ a b)⟩

/-- Settles O10: the sign test finds exactly the differences out of range (R81). -/
theorem lSubResult : Obligations.LSubResult :=
  ⟨reads_lSub, fun loc a b s accepts =>
    exec_answered (.lSub loc a b) s _ _ rfl accepts (arithReply_lSub loc _ _ a b)⟩

/-- Settles O11: negation is the clamped difference from 0, out of range for the least Word32 alone. -/
theorem lNegateResult : Obligations.LNegateResult :=
  ⟨reads_lNegate, fun loc a s accepts =>
    exec_answered (.lNegate loc a) s _ _ rfl accepts (arithReply_lNegate loc _ _ a)⟩

end Sys2Proof.Spec
end

/-! Facts that the statements of 42_multiplicative.md need (R90 to R101), and the theorems that settle them. -/

section
namespace Sys2Proof.Spec
open Sys2Proof.Machine

/-! How the multiplicative commands' words are read: two Word16 operands (R90), or an accumulator and two Word16 operands (R93) -/

section reads
variable {k : Nat}

theorem reads_product {mk : FlagLoc → Word16 → Word16 → Instr}
    (row : ∀ w, CmdWord.rsv0 w = false → (CmdWord.op w).toNat = k →
      decode w = .ok (mk (CmdWord.loc w) (CmdWord.a16 w) (CmdWord.b16 w))) :
    Reads k fun w => mk (locBits w) (w.extractLsb' 48 16) (w.extractLsb' 16 16) := by
  intro w hr hop
  rw [row w hr hop, a16_eq_extract, b16_eq_extract]; rfl

theorem reads_accumulate {mk : FlagLoc → Word32 → Word16 → Word16 → Instr}
    (row : ∀ w, CmdWord.rsv0 w = false → (CmdWord.op w).toNat = k →
      decode w = .ok (mk (CmdWord.loc w) (CmdWord.a w) (CmdWord.b16 w) (CmdWord.c w))) :
    Reads k fun w => mk (locBits w) (w.extractLsb' 48 32) (w.extractLsb' 16 16) (w.extractLsb' 0 16) := by
  intro w hr hop
  rw [row w hr hop, b16_eq_extract]; rfl

end reads

/-! The product of two Word16 operands: only -32768 times -32768 comes near `2^30` (R90 to R92) -/

section product
variable (a b : Word16)

theorem topPair_iff : topPair a b = true ↔ s16 a = min16 ∧ s16 b = min16 := decide_eq_true_iff

theorem topPair_iff_mul_eq : topPair a b = true ↔ s16 a * s16 b = 1073741824 :=
  (topPair_iff a b).trans (mul_eq_top _ _ (s16_range a) (s16_range b)).symm

/-- Every other product is at least 32768 below the top one, more than a rounding constant can bridge. -/
theorem mul_le_of_not_topPair (h : ¬ topPair a b = true) : s16 a * s16 b ≤ 1073709056 := by
  obtain ⟨ha, _⟩ : -32768 ≤ s16 a ∧ s16 a ≤ 32767 := s16_range a
  obtain ⟨hb, _⟩ : -32768 ≤ s16 b ∧ s16 b ≤ 32767 := s16_range b
  rw [topPair_iff, min16] at h
  by_cases hx : s16 a = -32768
  · have : s16 b ≠ -32768 := fun hy => h ⟨hx, hy⟩
    rw [hx]; omega
  · have : -32767 ≤ s16 a := by omega
    nlinarith

/-- Rescaled by 15 places, with a rounding constant of at most one half or with none, only the top product is too large
(R90, R91). -/
theorem out16_rescaled (r : Int) (h0 : 0 ≤ r) (h1 : r ≤ 16384) :
    out16 ((s16 a * s16 b + r) / 32768) = topPair a b := by
  obtain ⟨hmin, hmax⟩ := mul_range _ _ (s16_range a) (s16_range b)
  by_cases top : topPair a b = true
  · rw [top, (topPair_iff_mul_eq a b).1 top, out16, decide_eq_true_iff]; omega
  · have := mul_le_of_not_topPair a b top
    rw [Bool.eq_false_iff.2 top, out16, decide_eq_false_iff_not]; omega

theorem mult16_rescale : mult16 (s16 a) (s16 b) = saturate (s16 a * s16 b / 32768) := rfl

/-- The bit steps of R91 round the product at 15 places. -/
theorem multR16_rescale : multR16 (s16 a) (s16 b) = saturate ((s16 a * s16 b + 16384) / 32768) := by
  rw [multR16, roundedProduct_eq _ _ (s16_range a) (s16_range b)]; rfl

theorem lMult_eq_doubled : lMult (s16 a) (s16 b) = (doubled a b, topPair a b) := by
  have hp : pow2 30 = 1073741824 := by decide
  rw [lMult, doubled, hp]
  by_cases top : topPair a b = true
  · rw [if_pos ((topPair_iff_mul_eq a b).1 top), if_pos top, top]; rfl
  · rw [if_neg (mt (topPair_iff_mul_eq a b).2 top), if_neg top, Bool.eq_false_iff.2 top]; rfl

theorem doubled_range : min32 ≤ doubled a b ∧ doubled a b ≤ max32 := by
  have value : doubled a b = clamp32 (2 * (s16 a * s16 b)) :=
    congrArg Prod.fst ((lMult_eq_doubled a b).symm.trans (lMult_eq _ _ (s16_range a) (s16_range b)))
  rw [value]
  exact clamp32_range _

end product

/-! The stages after the multiply: the 32-bit clamp (R93, R94), the wrap (R97, R98) and the rounding (R99) -/

section stages
variable (acc : Word32) (x y : Word16)

theorem lMac_eq_stages : lMac (s32 acc) (s16 x) (s16 y) =
    (sat32 (s32 acc + doubled x y), topPair x y || out32 (s32 acc + doubled x y)) := by
  rw [lMac, lMult_eq_doubled, lAdd_eq _ _ (s32_range acc) (doubled_range x y), clamp32_eq_sat32, not_inRange32_eq_out32]

theorem lMsu_eq_stages : lMsu (s32 acc) (s16 x) (s16 y) =
    (sat32 (s32 acc - doubled x y), topPair x y || out32 (s32 acc - doubled x y)) := by
  rw [lMsu, lMult_eq_doubled, lSub_eq _ _ (s32_range acc) (doubled_range x y), clamp32_eq_sat32, not_inRange32_eq_out32]

theorem wrap32_eq_bmod (n : Int) : wrap32 n = n.bmod 4294967296 := BitVec.toInt_ofInt n

theorem rnd_eq_saturate (n : Nat) (t : Int) : rnd n t = saturate (rounded n t) := by
  simp [rnd, rounded, floorShift, pow2]

/-- A narrowing as the last stage, its event combined with the one of the stages before (R96). -/
theorem reply16_last_saturate (n : Int) (e : Bool) : reply16 ((saturate n).1, e || (saturate n).2) =
    { result := BitVec.ofInt 32 (sat16 n), event := e || out16 n } := by
  obtain ⟨result, event⟩ : sext32 (u16 (saturate n).1) = BitVec.ofInt 32 (sat16 n) ∧ (saturate n).2 = out16 n :=
    Reply.mk.inj (reply16_saturate n)
  rw [reply16, result, event]

end stages

/-! The reply of each multiplicative command (R90 to R101) -/

section replies
variable (loc : FlagLoc) (ep : ErrPolicy) (rndSh : Nat) (acc : Word32) (x y : Word16)

theorem arithReply_mult : arithReply (.mult loc x y) ep rndSh =
    some { result := BitVec.ofInt 32 (sat16 (x.toInt * y.toInt / 32768)), event := topPair x y } := by
  have event := out16_rescaled x y 0 (by decide) (by decide)
  rw [Int.add_zero] at event
  rw [arithReply, mult16_rescale, reply16_saturate, event]; rfl

theorem arithReply_multR : arithReply (.multR loc x y) ep rndSh =
    some { result := BitVec.ofInt 32 (sat16 ((x.toInt * y.toInt + 16384) / 32768)), event := topPair x y } := by
  rw [arithReply, multR16_rescale, reply16_saturate, out16_rescaled x y 16384 (by decide) (by decide)]; rfl

theorem arithReply_lMult : arithReply (.lMult loc x y) ep rndSh =
    some { result := BitVec.ofInt 32 (doubled x y), event := topPair x y } := by
  rw [arithReply, lMult_eq_doubled]; rfl

theorem arithReply_lMac : arithReply (.lMac loc acc x y) ep rndSh =
    some { result := BitVec.ofInt 32 (sat32 (acc.toInt + doubled x y))
           event := topPair x y || out32 (acc.toInt + doubled x y) } := by
  rw [arithReply, lMac_eq_stages]; rfl

theorem arithReply_lMsu : arithReply (.lMsu loc acc x y) ep rndSh =
    some { result := BitVec.ofInt 32 (sat32 (acc.toInt - doubled x y))
           event := topPair x y || out32 (acc.toInt - doubled x y) } := by
  rw [arithReply, lMsu_eq_stages]; rfl

theorem arithReply_lMacNs : arithReply (.lMacNs loc acc x y) ep rndSh =
    some { result := BitVec.ofInt 32 ((acc.toInt + doubled x y).bmod 4294967296), event := topPair x y } := by
  rw [arithReply, lMacNs, lMult_eq_doubled, wrap32_eq_bmod]; rfl

theorem arithReply_lMsuNs : arithReply (.lMsuNs loc acc x y) ep rndSh =
    some { result := BitVec.ofInt 32 ((acc.toInt - doubled x y).bmod 4294967296), event := topPair x y } := by
  rw [arithReply, lMsuNs, lMult_eq_doubled, wrap32_eq_bmod]; rfl

theorem arithReply_macR : arithReply (.macR loc acc x y) ep rndSh =
    some { result := BitVec.ofInt 32 (sat16 (rounded rndSh (sat32 (acc.toInt + doubled x y))))
           event := topPair x y || out32 (acc.toInt + doubled x y) ||
             out16 (rounded rndSh (sat32 (acc.toInt + doubled x y))) } := by
  rw [arithReply, macR, lMac_eq_stages, rnd_eq_saturate, reply16_last_saturate]; rfl

theorem arithReply_msuR : arithReply (.msuR loc acc x y) ep rndSh =
    some { result := BitVec.ofInt 32 (sat16 (rounded rndSh (sat32 (acc.toInt - doubled x y))))
           event := topPair x y || out32 (acc.toInt - doubled x y) ||
             out16 (rounded rndSh (sat32 (acc.toInt - doubled x y))) } := by
  rw [arithReply, msuR, lMsu_eq_stages, rnd_eq_saturate, reply16_last_saturate]; rfl

end replies

/-! The statements -/

/-- Settles O12: the floor of the exact product leaves the Word16 range for the top pair alone. -/
theorem multResult : Obligations.MultResult :=
  ⟨reads_product fun w hr hop => by rw [decode, hr, hop]; rfl, fun loc a b s accepts =>
    exec_answered (.mult loc a b) s _ _ rfl accepts (arithReply_mult loc _ _ a b)⟩

/-- Settles O13: the bit steps are the rounded rescale, and the rounding constant brings no other product to the top. -/
theorem multRResult : Obligations.MultRResult :=
  ⟨reads_product fun w hr hop => by rw [decode, hr, hop]; rfl, fun loc a b s accepts =>
    exec_answered (.multR loc a b) s _ _ rfl accepts (arithReply_multR loc _ _ a b)⟩

/-- Settles O14: the product is `2^30` for the top pair alone. -/
theorem lMultResult : Obligations.LMultResult :=
  ⟨reads_product fun w hr hop => by rw [decode, hr, hop]; rfl, fun loc a b s accepts =>
    exec_answered (.lMult loc a b) s _ _ rfl accepts (arithReply_lMult loc _ _ a b)⟩

/-- Settles O15: the doubled product is a Word32, so L_add clamps its sum with the accumulator. -/
theorem lMacResult : Obligations.LMacResult :=
  ⟨reads_accumulate fun w hr hop => by rw [decode, hr, hop]; rfl, fun loc acc x y s accepts =>
    exec_answered (.lMac loc acc x y) s _ _ rfl accepts (arithReply_lMac loc _ _ acc x y)⟩

/-- Settles O16: as O15 with L_sub. -/
theorem lMsuResult : Obligations.LMsuResult :=
  ⟨reads_accumulate fun w hr hop => by rw [decode, hr, hop]; rfl, fun loc acc x y s accepts =>
    exec_answered (.lMsu loc acc x y) s _ _ rfl accepts (arithReply_lMsu loc _ _ acc x y)⟩

/-- Settles O17: the wrap is the balanced remainder, and the multiply stage alone signals. -/
theorem lMacNsResult : Obligations.LMacNsResult :=
  ⟨reads_accumulate fun w hr hop => by rw [decode, hr, hop]; rfl, fun loc acc x y s accepts =>
    exec_answered (.lMacNs loc acc x y) s _ _ rfl accepts (arithReply_lMacNs loc _ _ acc x y)⟩

/-- Settles O18: as O17 with the difference. -/
theorem lMsuNsResult : Obligations.LMsuNsResult :=
  ⟨reads_accumulate fun w hr hop => by rw [decode, hr, hop]; rfl, fun loc acc x y s accepts =>
    exec_answered (.lMsuNs loc acc x y) s _ _ rfl accepts (arithReply_lMsuNs loc _ _ acc x y)⟩

/-- Settles O19: L_mac's value through the rounding stage, the events of the stages combined. -/
theorem macRResult : Obligations.MacRResult :=
  ⟨reads_accumulate fun w hr hop => by rw [decode, hr, hop]; rfl, fun loc acc x y s accepts =>
    exec_answered (.macR loc acc x y) s _ _ rfl accepts (arithReply_macR loc _ _ acc x y)⟩

/-- Settles O20: as O19 with L_msu. -/
theorem msuRResult : Obligations.MsuRResult :=
  ⟨reads_accumulate fun w hr hop => by rw [decode, hr, hop]; rfl, fun loc acc x y s accepts =>
    exec_answered (.msuR loc acc x y) s _ _ rfl accepts (arithReply_msuR loc _ _ acc x y)⟩

end Sys2Proof.Spec
end

/-! Facts that the statements of 43_shift.md need (R113 to R120), and the theorems that settle them. -/

section
namespace Sys2Proof.Machine

/-! The powers of two and the event of a clamped left shift, as the rules write them (R113, R117) -/

theorem pow2_eq_two_pow (k : Nat) : pow2 k = 2 ^ k := by rw [pow2, Nat.cast_pow, Nat.cast_ofNat]

theorem decide_clamp16_ne (x : Int) : decide (clamp16 x ≠ x) = !inRange16 x := by
  rw [Bool.eq_iff_iff, decide_eq_true_iff, clamp16_ne_iff, Bool.not_eq_true']

theorem decide_clamp32_ne (x : Int) : decide (clamp32 x ≠ x) = !inRange32 x := by
  rw [Bool.eq_iff_iff, decide_eq_true_iff, clamp32_ne_iff, Bool.not_eq_true']

/-! The symmetry of the shifts (R120): the count's sign picks the direction, and over the distance 0 both directions leave a word of
the width as it is -/

theorem shlPos_zero (a : Word16) : shlPos (s16 a) 0 = shrPos (s16 a) 0 := by
  have fits := (inRange16_iff _).2 (s16_range a)
  rw [shlPos_eq, shrPos_eq _ _ (s16_range a), pow2_eq_two_pow, pow_zero, mul_one, clamp16_of_inRange _ fits, fits, floorShift_zero,
    Bool.not_true]

theorem lShlPos_zero (a : Word32) : lShlPos (s32 a) 0 = lShrPos (s32 a) 0 := by
  have fits := (inRange32_iff _).2 (s32_range a)
  rw [lShlPos_eq, lShrPos_eq _ _ (s32_range a), pow2_eq_two_pow, pow_zero, mul_one, clamp32_of_inRange _ fits, fits, floorShift_zero,
    Bool.not_true]

/-- Two directions, one taken for a negative count and one for any other, change places with the count's sign when they agree at 0. -/
theorem directed_neg {α : Type} (back ahead : Nat → α) (agree : ahead 0 = back 0) (n : Int) :
    (if -n < 0 then back (- -n).toNat else ahead (-n).toNat) = if n < 0 then ahead (-n).toNat else back n.toNat := by
  rcases lt_trichotomy n 0 with neg | rfl | pos
  · rw [if_neg (by omega), if_pos neg]
  · exact agree
  · rw [if_pos (by omega), if_neg (by omega), neg_neg]

theorem shl16_neg (a : Word16) (n : Int) : shl16 (s16 a) (-n) = shr16 (s16 a) n :=
  directed_neg (shrPos (s16 a)) (shlPos (s16 a)) (shlPos_zero a) n

theorem shr16_neg (a : Word16) (n : Int) : shr16 (s16 a) (-n) = shl16 (s16 a) n := by
  rw [← shl16_neg, neg_neg]

theorem shl32_neg (a : Word32) (n : Int) : shl32 (s32 a) (-n) = shr32 (s32 a) n :=
  directed_neg (lShrPos (s32 a)) (lShlPos (s32 a)) (lShlPos_zero a) n

theorem shr32_neg (a : Word32) (n : Int) : shr32 (s32 a) (-n) = shl32 (s32 a) n := by
  rw [← shl32_neg, neg_neg]

/-- Of the counts only -32768 has no negative (R120). -/
theorem s16_neg (n : Word16) (h : n ≠ 0x8000#16) : s16 (-n) = -s16 n :=
  BitVec.toInt_neg_of_ne_intMin h

end Sys2Proof.Machine

namespace Sys2Proof.Spec
open Sys2Proof.Machine

/-! How the 32-bit shifts' words are read: a Word32 operand and a Word16 count (R117); the 16-bit ones have two Word16 operands -/

theorem reads_shift32 {k : Nat} {mk : FlagLoc → Word32 → Word16 → Instr}
    (row : ∀ w, CmdWord.rsv0 w = false → (CmdWord.op w).toNat = k →
      decode w = .ok (mk (CmdWord.loc w) (CmdWord.a w) (CmdWord.b16 w))) :
    Reads k fun w => mk (locBits w) (w.extractLsb' 48 32) (w.extractLsb' 16 16) := by
  intro w hr hop
  rw [row w hr hop, b16_eq_extract]; rfl

/-! The two directions of a shift as replies: the clamped product with its event, and the floor, which never signals (R110, R111, R115,
R116) -/

theorem reply16_left (a : Int) (k : Nat) :
    reply16 (clamp16 (a * pow2 k), decide (clamp16 (a * pow2 k) ≠ a * pow2 k)) =
      { result := BitVec.ofInt 32 (sat16 (a * 2 ^ k)), event := out16 (a * 2 ^ k) } := by
  rw [decide_clamp16_ne, ← saturate_eq, reply16_saturate, pow2_eq_two_pow]

theorem reply16_right (a : Word16) (k : Nat) :
    reply16 (floorShift (s16 a) k, false) = { result := BitVec.ofInt 32 (s16 a / 2 ^ k), event := false } := by
  obtain ⟨lo, hi⟩ := s16_range a
  obtain ⟨hmin, hmax⟩ := floorShift_range (s16 a) k min16 max16 lo hi (by decide) (by decide)
  rw [reply16, result16_eq _ hmin hmax, floorShift, pow2_eq_two_pow]

theorem reply32_left (a : Int) (k : Nat) :
    reply32 (clamp32 (a * pow2 k), decide (clamp32 (a * pow2 k) ≠ a * pow2 k)) =
      { result := BitVec.ofInt 32 (sat32 (a * 2 ^ k)), event := out32 (a * 2 ^ k) } := by
  rw [decide_clamp32_ne, reply32_clamped, pow2_eq_two_pow]

theorem reply32_right (a : Int) (k : Nat) :
    reply32 (floorShift a k, false) = { result := BitVec.ofInt 32 (a / 2 ^ k), event := false } := by
  rw [floorShift, pow2_eq_two_pow]; rfl

/-! The reply of each shift, for every count (R113, R114, R117 to R119) -/

theorem reply16_shl16 (a : Word16) (n : Int) : reply16 (shl16 (s16 a) n) =
    { result := BitVec.ofInt 32 (if n < 0 then s16 a / 2 ^ (-n).toNat else sat16 (s16 a * 2 ^ n.toNat))
      event := decide (0 ≤ n) && out16 (s16 a * 2 ^ n.toNat) } := by
  rw [shl16_closed_form _ _ (s16_range a)]
  rcases lt_or_ge n 0 with neg | nonneg
  · rw [if_pos neg, if_pos neg, reply16_right, decide_eq_false (not_le.2 neg), Bool.false_and]
  · rw [if_neg (not_lt.2 nonneg), if_neg (not_lt.2 nonneg), reply16_left, decide_eq_true nonneg, Bool.true_and]

theorem reply16_shr16 (a : Word16) (n : Int) : reply16 (shr16 (s16 a) n) =
    { result := BitVec.ofInt 32 (if n < 0 then sat16 (s16 a * 2 ^ (-n).toNat) else s16 a / 2 ^ n.toNat)
      event := decide (n < 0) && out16 (s16 a * 2 ^ (-n).toNat) } := by
  rw [shr16_closed_form _ _ (s16_range a)]
  by_cases neg : n < 0
  · rw [if_pos neg, if_pos neg, reply16_left, decide_eq_true neg, Bool.true_and]
  · rw [if_neg neg, if_neg neg, reply16_right, decide_eq_false neg, Bool.false_and]

theorem reply32_shl32 (a : Word32) (n : Int) : reply32 (shl32 (s32 a) n) =
    { result := BitVec.ofInt 32 (if n < 0 then s32 a / 2 ^ (-n).toNat else sat32 (s32 a * 2 ^ n.toNat))
      event := decide (0 ≤ n) && out32 (s32 a * 2 ^ n.toNat) } := by
  rw [shl32_closed_form _ _ (s32_range a)]
  rcases lt_or_ge n 0 with neg | nonneg
  · rw [if_pos neg, if_pos neg, reply32_right, decide_eq_false (not_le.2 neg), Bool.false_and]
  · rw [if_neg (not_lt.2 nonneg), if_neg (not_lt.2 nonneg), reply32_left, decide_eq_true nonneg, Bool.true_and]

theorem reply32_shr32 (a : Word32) (n : Int) : reply32 (shr32 (s32 a) n) =
    { result := BitVec.ofInt 32 (if n < 0 then sat32 (s32 a * 2 ^ (-n).toNat) else s32 a / 2 ^ n.toNat)
      event := decide (n < 0) && out32 (s32 a * 2 ^ (-n).toNat) } := by
  rw [shr32_closed_form _ _ (s32_range a)]
  by_cases neg : n < 0
  · rw [if_pos neg, if_pos neg, reply32_left, decide_eq_true neg, Bool.true_and]
  · rw [if_neg neg, if_neg neg, reply32_right, decide_eq_false neg, Bool.false_and]

/-- The clamp of R119's last clause does nothing at the count 0, where L_SHR_R gives the operand. -/
theorem sat32_s32 (a : Word32) : sat32 (s32 a) = s32 a := by
  rw [← clamp32_eq_sat32, clamp32_of_inRange _ ((inRange32_iff _).2 (s32_range a))]

theorem reply32_shrR32 (a : Word32) (n : Int) : reply32 (shrR32 (s32 a) n) =
    { result := BitVec.ofInt 32 (if 0 < n then rounded n.toNat (s32 a) else sat32 (s32 a * 2 ^ (-n).toNat))
      event := decide (n < 0) && out32 (s32 a * 2 ^ (-n).toNat) } := by
  rcases lt_trichotomy n 0 with neg | rfl | pos
  · rw [shrR32, if_pos neg.le, reply32_shr32, if_pos neg, if_neg neg.not_gt]
  · rw [shrR32, if_pos le_rfl, reply32_shr32]
    simp [sat32_s32]
  · rw [shrR32, if_neg (not_le.2 pos), reply32_right, if_pos pos, decide_eq_false pos.not_gt, Bool.false_and, pow2_eq_two_pow,
      rounded]

/-! Commands of one reply (R120) -/

/-- Two arithmetic commands of one flag location and one reply do the same on a block that accepts them. -/
theorem exec_eq_of_arithReply_eq (i j : Instr) (s : State) (r : Reply) (hi : i.isFlagAccess = false) (hj : j.isFlagAccess = false)
    (hl : j.loc = i.loc) (ha : Accepts s i.loc) (ri : arithReply i s.cfg.errPolicy s.cfg.rndSh = some r)
    (rj : arithReply j s.cfg.errPolicy s.cfg.rndSh = some r) : exec i s = exec j s := by
  obtain ⟨_, context⟩ := ha
  have present : s.badContext i.loc = false := (badContext_eq_false_iff s i.loc).2 context
  rw [exec_eq_arithReply i s hi, exec_eq_arithReply j s hj, ri, rj]
  show runArith i r s = runArith j r s
  rw [runArith_of_present i r s present, runArith_of_present j r s (hl ▸ present), hl]

/-! The statements -/

/-- Settles O21, by the row of the decoder and the closed form of the shift in each direction. -/
theorem shlResult : Obligations.ShlResult :=
  ⟨reads_product fun w hr hop => by rw [decode, hr, hop]; rfl, fun loc a n s accepts =>
    exec_answered (.shl loc a n) s _ _ rfl accepts (congrArg some (reply16_shl16 a n.toInt))⟩

/-- Settles O22: as O21 with the directions changed over. -/
theorem shrResult : Obligations.ShrResult :=
  ⟨reads_product fun w hr hop => by rw [decode, hr, hop]; rfl, fun loc a n s accepts =>
    exec_answered (.shr loc a n) s _ _ rfl accepts (congrArg some (reply16_shr16 a n.toInt))⟩

/-- Settles O23: as O21 at 32 bits. -/
theorem lShlResult : Obligations.LShlResult :=
  ⟨reads_shift32 fun w hr hop => by rw [decode, hr, hop]; rfl, fun loc a n s accepts =>
    exec_answered (.lShl loc a n) s _ _ rfl accepts (congrArg some (reply32_shl32 a n.toInt))⟩

/-- Settles O24: as O22 at 32 bits. -/
theorem lShrResult : Obligations.LShrResult :=
  ⟨reads_shift32 fun w hr hop => by rw [decode, hr, hop]; rfl, fun loc a n s accepts =>
    exec_answered (.lShr loc a n) s _ _ rfl accepts (congrArg some (reply32_shr32 a n.toInt))⟩

/-- Settles O25: L_SHR for a count that is not positive, the exact rounding sum for one that is. -/
theorem lShrRResult : Obligations.LShrRResult :=
  ⟨reads_shift32 fun w hr hop => by rw [decode, hr, hop]; rfl, fun loc a n s accepts =>
    exec_answered (.lShrR loc a n) s _ _ rfl accepts (congrArg some (reply32_shrR32 a n.toInt))⟩

/-- Settles O40: the count's negative is exact, and the shifts change places with its sign. -/
theorem shiftSymmetry : Obligations.ShiftSymmetry := by
  intro loc a b n s hn accepts
  have count : s16 (-n) = -s16 n := s16_neg n hn
  refine ⟨?_, ?_, ?_, ?_⟩
  · exact exec_eq_of_arithReply_eq _ _ s _ rfl rfl rfl accepts (by rw [arithReply, count, shl16_neg]) rfl
  · exact exec_eq_of_arithReply_eq _ _ s _ rfl rfl rfl accepts (by rw [arithReply, count, shr16_neg]) rfl
  · exact exec_eq_of_arithReply_eq _ _ s _ rfl rfl rfl accepts (by rw [arithReply, count, shl32_neg]) rfl
  · exact exec_eq_of_arithReply_eq _ _ s _ rfl rfl rfl accepts (by rw [arithReply, count, shr32_neg]) rfl

end Sys2Proof.Spec
end

/-! Facts that the statements of 44_normalization.md need (R130 to R133), and the theorems that settle them. -/

section
namespace Sys2Proof.Spec
open Sys2Proof.Machine

/-! The number `m` of R132: a nonnegative operand itself, a negative one complemented -/

section magnitude

/-- `a` where it is not negative, else `~a` (R130, R132). -/
def magnitude (a : Int) : Nat := (if a < 0 then bitNot a else a).toNat

@[simp] theorem magnitude_natCast (n : Nat) : magnitude n = n := by
  rw [magnitude, if_neg (by omega), Int.toNat_natCast]

@[simp] theorem magnitude_negSucc (n : Nat) : magnitude (Int.negSucc n) = n := by
  simp [magnitude, bitNot, Int.neg_negSucc]

theorem cast_magnitude (a : Int) : (magnitude a : Int) = if a < 0 then bitNot a else a := by
  unfold magnitude bitNot; omega

theorem magnitude_ne_zero {a : Int} (zero : a ≠ 0) (ones : a ≠ -1) : magnitude a ≠ 0 := by
  unfold magnitude bitNot; omega

theorem magnitude_lt_iff (a : Int) (n : Nat) : magnitude a < 2 ^ n ↔ -2 ^ n ≤ a ∧ a < 2 ^ n := by
  have pos : 0 < 2 ^ n := Nat.two_pow_pos n
  have cast : ((2 ^ n : Nat) : Int) = 2 ^ n := by push_cast; rfl
  unfold magnitude bitNot; omega

/-- A left shift of the operand fills the low bits of `m` with zeros, or with ones where `m` is a complement. -/
theorem magnitude_shifted (a : Int) (k : Nat) :
    magnitude a * 2 ^ k ≤ magnitude (a * 2 ^ k) ∧ magnitude (a * 2 ^ k) < (magnitude a + 1) * 2 ^ k := by
  have pos : 0 < 2 ^ k := Nat.two_pow_pos k
  cases a with
  | ofNat n =>
    have shifted : Int.ofNat n * 2 ^ k = ((n * 2 ^ k : Nat) : Int) := by push_cast; rfl
    rw [shifted, Int.ofNat_eq_natCast, magnitude_natCast, magnitude_natCast, add_one_mul]
    omega
  | negSucc n =>
    have shifted : Int.negSucc n * 2 ^ k = -(((n + 1) * 2 ^ k : Nat) : Int) := by
      rw [Int.negSucc_eq]; push_cast; ring
    rw [shifted, magnitude_negSucc, magnitude, bitNot, add_one_mul]
    omega

theorem magnitude_s16 (a : Word16) : magnitude (s16 a) < 2 ^ 15 :=
  (magnitude_lt_iff _ _).2 ⟨BitVec.le_toInt a, BitVec.toInt_lt⟩

theorem magnitude_s32 (a : Word32) : magnitude (s32 a) < 2 ^ 31 :=
  (magnitude_lt_iff _ _).2 ⟨BitVec.le_toInt a, BitVec.toInt_lt⟩

end magnitude

/-! The doubling loop against the closed form (R130 to R132), in a word of `top + 2` bits -/

section count
variable (top : Nat) (a : Int)

theorem redundant_zero : redundant top 0 = 0 := rfl

theorem redundant_neg_one : redundant top (-1) = top + 1 := rfl

theorem redundant_of_ne (zero : a ≠ 0) (ones : a ≠ -1) :
    redundant top a = top - (Nat.log2 (magnitude a) : Int) := by
  rw [redundant, if_neg zero, if_neg ones]; rfl

/-- The loop stops at the doubling that brings the leading one of `m` to bit `top`. -/
theorem normLoop_eq_log2 (m : Nat) (h0 : m ≠ 0) (h1 : m < 2 ^ (top + 1)) :
    normLoop (pow2 top) top m 0 = top - (Nat.log2 m : Int) := by
  have below : (m : Int) < 2 * pow2 top := by rw [← pow2_succ]; exact Int.ofNat_lt.2 h1
  have enough : pow2 top ≤ m * pow2 top := le_mul_of_one_le_left (pow2_pos top).le (by omega)
  obtain ⟨j, loop, lo, hi, bound⟩ := normLoop_spec (pow2 top) top m 0 (by omega) below enough
  obtain ⟨i, rfl⟩ := Nat.exists_eq_add_of_le' bound
  have lo' : 2 ^ i * 2 ^ j ≤ m * 2 ^ j := by
    rw [pow2_eq_two_pow, pow2_eq_two_pow] at lo
    rw [← pow_add]; exact_mod_cast lo
  have hi' : m * 2 ^ j < 2 ^ (i + 1) * 2 ^ j := by
    rw [← pow2_succ, pow2_eq_two_pow, pow2_eq_two_pow] at hi
    rw [← pow_add, add_right_comm]; exact_mod_cast hi
  have leading : m.log2 = i := (Nat.log2_eq_iff h0).2
    ⟨Nat.le_of_mul_le_mul_right lo' (Nat.two_pow_pos j), Nat.lt_of_mul_lt_mul_right hi'⟩
  rw [loop, leading]; push_cast; ring

/-- The computation that R130 gives for `top = 14` and R131 repeats for `top = 30`. -/
def signBits : Int × Bool :=
  if a = 0 then (0, false)
  else if a = -1 then (top + 1, false)
  else (normLoop (pow2 top) top (if a < 0 then bitNot a else a) 0, false)

theorem normS16_eq_signBits : normS16 a = signBits 14 a := rfl

theorem normL32_eq_signBits : normL32 a = signBits 30 a := rfl

theorem signBits_eq_redundant (fits : magnitude a < 2 ^ (top + 1)) : signBits top a = (redundant top a, false) := by
  unfold signBits
  by_cases zero : a = 0
  · rw [if_pos zero, zero, redundant_zero]
  by_cases ones : a = -1
  · rw [if_neg zero, if_pos ones, ones, redundant_neg_one]
  have nonzero := magnitude_ne_zero zero ones
  rw [if_neg zero, if_neg ones, ← cast_magnitude, normLoop_eq_log2 top _ nonzero fits, redundant_of_ne top a zero ones]

end count

/-! What the count is for: shifted by it, a word's two top bits differ (R133) -/

section normalised
variable {top : Nat} {a y : Int}

/-- The leading one of `y`, of its complement if `y` is negative, is bit `top`. -/
def Normalised (top : Nat) (y : Int) : Prop := 2 ^ top ≤ magnitude y ∧ magnitude y < 2 ^ (top + 1)

/-- The count is a distance of at most `top + 1`, and shifting by it brings the leading one to bit `top`. -/
theorem exists_redundant (zero : a ≠ 0) (fits : magnitude a < 2 ^ (top + 1)) :
    ∃ k : Nat, k ≤ top + 1 ∧ redundant top a = k ∧ Normalised top (a * 2 ^ k) := by
  by_cases ones : a = -1
  · subst ones
    have pos : 0 < 2 ^ top := Nat.two_pow_pos top
    have shifted : magnitude (-1 * 2 ^ (top + 1)) = 2 ^ (top + 1) - 1 := by
      have cast : (2 : Int) ^ (top + 1) = ((2 ^ (top + 1) : Nat) : Int) := by push_cast; rfl
      rw [cast, magnitude, bitNot, pow_succ]; omega
    refine ⟨top + 1, le_rfl, redundant_neg_one top, ?_⟩
    rw [Normalised, shifted, pow_succ]
    omega
  · have nonzero := magnitude_ne_zero zero ones
    obtain ⟨k, split⟩ := Nat.exists_eq_add_of_le (Nat.lt_succ_iff.1 ((Nat.log2_lt nonzero).2 fits))
    obtain ⟨lo, hi⟩ := magnitude_shifted a k
    refine ⟨k, by omega, ?_, ?_, ?_⟩
    · rw [redundant_of_ne top a zero ones]; omega
    · calc 2 ^ top = 2 ^ (magnitude a).log2 * 2 ^ k := by rw [← pow_add, ← split]
        _ ≤ magnitude a * 2 ^ k := Nat.mul_le_mul_right _ (Nat.log2_self_le nonzero)
        _ ≤ magnitude (a * 2 ^ k) := lo
    · calc magnitude (a * 2 ^ k) < (magnitude a + 1) * 2 ^ k := hi
        _ ≤ 2 ^ ((magnitude a).log2 + 1) * 2 ^ k := Nat.mul_le_mul_right _ Nat.lt_log2_self
        _ = 2 ^ (top + 1) := by rw [← pow_add, add_right_comm, ← split]

/-- A Word16 holds the count at either width (R130, R131). -/
theorem redundant_range (small : top ≤ 30) (fits : magnitude a < 2 ^ (top + 1)) :
    min16 ≤ redundant top a ∧ redundant top a ≤ max16 := by
  unfold min16 max16
  by_cases zero : a = 0
  · rw [zero, redundant_zero]; omega
  · obtain ⟨k, bound, count, _⟩ := exists_redundant zero fits
    omega

theorem reply16_signBits (small : top ≤ 30) (fits : magnitude a < 2 ^ (top + 1)) :
    reply16 (signBits top a) = { result := BitVec.ofInt 32 (redundant top a), event := false } := by
  obtain ⟨hmin, hmax⟩ := redundant_range small fits
  rw [signBits_eq_redundant top a fits, reply16, result16_eq _ hmin hmax]

theorem arithReply_normS (loc : FlagLoc) (ep : ErrPolicy) (rndSh : Nat) (x : Word16) :
    arithReply (.normS loc x) ep rndSh = some { result := BitVec.ofInt 32 (redundant 14 x.toInt), event := false } := by
  rw [arithReply, normS16_eq_signBits, reply16_signBits (by decide) (magnitude_s16 x)]; rfl

theorem arithReply_normL (loc : FlagLoc) (ep : ErrPolicy) (rndSh : Nat) (x : Word32) :
    arithReply (.normL loc x) ep rndSh = some { result := BitVec.ofInt 32 (redundant 30 x.toInt), event := false } := by
  rw [arithReply, normL32_eq_signBits, reply16_signBits (by decide) (magnitude_s32 x)]; rfl

/-- A negative integer's bits are those of its complement, inverted. -/
theorem getLsbD_ofInt {w i : Nat} (hi : i < w) (y : Int) :
    (BitVec.ofInt w y).getLsbD i = (decide (y < 0) ^^ (magnitude y).testBit i) := by
  cases y with
  | ofNat n =>
    rw [Int.ofNat_eq_natCast, BitVec.ofInt_natCast, BitVec.getLsbD_ofNat, decide_eq_true hi, magnitude_natCast,
      decide_eq_false (by omega), Bool.true_and, Bool.false_xor]
  | negSucc n =>
    rw [BitVec.ofInt_negSucc_eq_not_ofNat, BitVec.getLsbD_not, BitVec.getLsbD_ofNat, decide_eq_true hi, magnitude_negSucc,
      decide_eq_true (Int.negSucc_lt_zero n), Bool.true_and, Bool.true_and, Bool.true_xor]

/-- Bit `top` of a normalised word differs from its sign, which is bit `top + 1`. -/
theorem Normalised.top_bits {w : Nat} (h : Normalised top y) (hw : top + 1 < w) :
    (BitVec.ofInt w y).getLsbD (top + 1) = decide (y < 0) ∧ (BitVec.ofInt w y).getLsbD top = !decide (y < 0) := by
  obtain ⟨lo, hi⟩ := h
  rw [getLsbD_ofInt hw, getLsbD_ofInt (Nat.lt_of_succ_lt hw), Nat.testBit_lt_two_pow hi,
    Nat.testBit_of_two_pow_le_and_two_pow_add_one_gt lo hi, Bool.xor_false, Bool.xor_true]
  exact ⟨rfl, rfl⟩

/-! A normalised value is in range at its width, so the left shift that gives it neither clamps nor signals -/

theorem Normalised.fits16 (h : Normalised 14 y) : sat16 y = y ∧ out16 y = false := by
  obtain ⟨hmin, hmax⟩ := (magnitude_lt_iff y 15).1 h.2
  rw [out16, decide_eq_false_iff_not, sat16]; omega

theorem Normalised.fits32 (h : Normalised 30 y) : sat32 y = y ∧ out32 y = false := by
  obtain ⟨hmin, hmax⟩ := (magnitude_lt_iff y 31).1 h.2
  rw [out32, decide_eq_false_iff_not, sat32]; omega

theorem exec_shl_normalised (loc : FlagLoc) (x n : Word16) (t : State) (k : Nat) (count : s16 n = k)
    (h : Normalised 14 (s16 x * 2 ^ k)) (accepts : Accepts t loc) :
    exec (.shl loc x n) t = .next (answered t loc (s16 x * 2 ^ k) false) := by
  obtain ⟨value, event⟩ := h.fits16
  refine exec_answered (.shl loc x n) t _ _ rfl accepts ?_
  rw [arithReply, count, reply16_shl16, if_neg (by omega), Int.toNat_natCast, value, event, Bool.and_false]

theorem exec_lShl_normalised (loc : FlagLoc) (x : Word32) (n : Word16) (t : State) (k : Nat) (count : s16 n = k)
    (h : Normalised 30 (s32 x * 2 ^ k)) (accepts : Accepts t loc) :
    exec (.lShl loc x n) t = .next (answered t loc (s32 x * 2 ^ k) false) := by
  obtain ⟨value, event⟩ := h.fits32
  refine exec_answered (.lShl loc x n) t _ _ rfl accepts ?_
  rw [arithReply, count, reply32_shl32, if_neg (by omega), Int.toNat_natCast, value, event, Bool.and_false]

end normalised

/-! The response words of R133: the count as the operand of the shift, and the shifted word's event and top bits (R52) -/

section responses
variable (f : Bool)

theorem response_getLsbD (e : Bool) (r : Word32) (i : Nat) (hi : i < 32) :
    (response f e r).getLsbD i = r.getLsbD i := by
  rw [response, BitVec.getLsbD_append, if_pos hi]

theorem count_of_response (k : Nat) (hk : k ≤ 31) :
    s16 ((response f false (BitVec.ofInt 32 k)).extractLsb' 0 16) = k := by
  have field : (response f false (BitVec.ofInt 32 k)).extractLsb' 0 16 = BitVec.ofNat 16 k := by
    rw [response, extract_append_low _ _ 0 16 (by decide), BitVec.ofInt_natCast]
    apply BitVec.eq_of_toNat_eq
    simp
  rw [field, s16, ← BitVec.ofInt_natCast, BitVec.toInt_ofInt_eq_self (by decide) (by omega) (by omega)]

theorem normalised_response {top k : Nat} {a : Int} (htop : top ≤ 30) (zero : a ≠ 0) (h : Normalised top (a * 2 ^ k)) :
    (response f false (BitVec.ofInt 32 (a * 2 ^ k))).getLsbD 32 = false ∧
    (response f false (BitVec.ofInt 32 (a * 2 ^ k))).getLsbD (top + 1) = decide (a < 0) ∧
    (response f false (BitVec.ofInt 32 (a * 2 ^ k))).getLsbD top = decide (0 < a) := by
  have sign : a * 2 ^ k < 0 ↔ a < 0 := by
    rw [← not_le, mul_nonneg_iff_of_pos_right (by positivity), not_le]
  have opposite : (!decide (a < 0)) = decide (0 < a) := by
    rw [← decide_not, decide_eq_decide]; omega
  obtain ⟨signBit, nextBit⟩ := h.top_bits (w := 32) (by omega)
  rw [response_getLsbD f _ _ (top + 1) (by omega), response_getLsbD f _ _ top (by omega), signBit, nextBit,
    decide_eq_decide.2 sign, opposite]
  exact ⟨rspEvent_packRsp f false _, rfl, rfl⟩

/-- R133 at either width: the count is answered, and a shift that normalises the operand takes it from the response word. -/
theorem exists_normalised {top : Nat} {a : Int} {loc : FlagLoc} {s : State} {norm : Instr} {shift : Word16 → Instr}
    (htop : top ≤ 30) (zero : a ≠ 0) (fits : magnitude a < 2 ^ (top + 1))
    (counted : exec norm s = .next (answered s loc (redundant top a) false))
    (shifted : ∀ (k : Nat) (n : Word16), s16 n = k → Normalised top (a * 2 ^ k) →
      exec (shift n) (answered s loc (redundant top a) false) =
        .next (answered (answered s loc (redundant top a) false) loc (a * 2 ^ k) false)) :
    ∃ t₁ t₂ r₁ r₂, exec norm s = .next t₁ ∧ t₁.rsp = some r₁ ∧
      exec (shift (r₁.extractLsb' 0 16)) t₁ = .next t₂ ∧ t₂.rsp = some r₂ ∧
      r₂.getLsbD 32 = false ∧ r₂.getLsbD (top + 1) = decide (a < 0) ∧ r₂.getLsbD top = decide (0 < a) := by
  obtain ⟨k, bound, count, normal⟩ := exists_redundant zero fits
  have field : s16 ((response (newFlag s loc false) false (BitVec.ofInt 32 (redundant top a))).extractLsb' 0 16) = k := by
    rw [count, count_of_response _ k (by omega)]
  exact ⟨_, _, _, _, counted, rfl, shifted k _ field normal, rfl, normalised_response _ htop zero normal⟩

end responses

/-! The statements -/

/-- Settles O26: the loop stops when the leading one of `m` is at bit 14. -/
theorem normSResult : Obligations.NormSResult := by
  refine ⟨fun w (hr : CmdWord.rsv0 w = false) (hop : (CmdWord.op w).toNat = 0x16) => ?_, fun loc a s accepts => ?_⟩
  · rw [decode, hr, hop, a16_eq_extract]; rfl
  · exact exec_answered (.normS loc a) s _ _ rfl accepts (arithReply_normS loc _ _ a)

/-- Settles O27: as O26 with the leading one at bit 30. -/
theorem normLResult : Obligations.NormLResult := by
  refine ⟨fun w (hr : CmdWord.rsv0 w = false) (hop : (CmdWord.op w).toNat = 0x17) => ?_, fun loc a s accepts => ?_⟩
  · rw [decode, hr, hop]; rfl
  · exact exec_answered (.normL loc a) s _ _ rfl accepts (arithReply_normL loc _ _ a)

/-- Settles O41: the answered count is the distance that brings the leading one next to the sign, and no further. -/
theorem normalises : Obligations.Normalises := by
  constructor
  · intro loc x s nonzero accepts
    have zero : s16 x ≠ 0 := fun h => nonzero (BitVec.eq_of_toInt_eq h)
    exact exists_normalised (top := 14) (by decide) zero (magnitude_s16 x) (normSResult.2 loc x s accepts)
      fun k n count normal => exec_shl_normalised loc x n _ k count normal accepts
  · intro loc x s nonzero accepts
    have zero : s32 x ≠ 0 := fun h => nonzero (BitVec.eq_of_toInt_eq h)
    exact exists_normalised (top := 30) (by decide) zero (magnitude_s32 x) (normLResult.2 loc x s accepts)
      fun k n count normal => exec_lShl_normalised loc x n _ k count normal accepts

end Sys2Proof.Spec
end

/-! Facts that the statements of 45_division.md need (R140 to R147), and the theorems that settle them. -/

section
namespace Sys2Proof.Machine

/-! The two branches of `div_s`, and what each policy makes of a domain error (R140, R143 to R145) -/

section policy
variable (num den : Int)

/-- In the domain the policy plays no part (R146). -/
theorem divS16_of_valid (p : ErrPolicy) (valid : domainError num den = false) :
    divS16 p num den = some (divCore num den) := by
  unfold divS16; rw [valid]; rfl

variable (error : domainError num den = true)
include error

theorem divS16_abort : divS16 .abort num den = none := by
  rw [divS16, error]; rfl

theorem divS16_continueMax : divS16 .continueMax num den = some (max16, false) := by
  rw [divS16, error]; rfl

theorem divS16_continueAbs : divS16 .continueAbs num den =
    if abs16 den = 0 then some (max16, false) else some (divCore (abs16 num) (abs16 den)) := by
  rw [divS16, error]; rfl

end policy

end Sys2Proof.Machine

namespace Sys2Proof.Spec
open Sys2Proof.Machine

/-! The domain (R141) -/

theorem domainError_iff (num den : Word16) : domainError (s16 num) (s16 den) = true ↔ DomainErr num den := by
  simp only [domainError, Bool.or_eq_true, decide_eq_true_iff, or_assoc]; rfl

theorem not_domainErr_iff (num den : Word16) :
    ¬ DomainErr num den ↔ 0 ≤ s16 num ∧ 1 ≤ s16 den ∧ s16 num ≤ s16 den := by
  unfold DomainErr s16; omega

/-! The quotient, wherever the numerator and a positive denominator may come from (R142, R147) -/

/-- A numerator that is not below the denominator has a quotient of at least 32768, which the bound brings to 32767. -/
theorem divCore_eq_min (num den : Int) (hnum : 0 ≤ num) (hden : 1 ≤ den) :
    divCore num den = (min (num * 32768 / den) 32767, false) := by
  by_cases below : num < den
  · have small : num * 32768 / den < 32768 := Int.ediv_lt_of_lt_mul (by omega) (by omega)
    rw [divCore_eq num den hnum below, min_eq_left (by omega)]
  · have large : 32768 ≤ num * 32768 / den := Int.le_ediv_of_mul_le (by omega) (by omega)
    rw [divCore, if_neg (by omega), if_pos (by omega), min_eq_right (by omega)]; rfl

theorem reply16_divCore (num den : Int) (hnum : 0 ≤ num) (hden : 1 ≤ den) :
    reply16 (divCore num den) = { result := BitVec.ofInt 32 (min (num * 32768 / den) 32767), event := false } := by
  have nonneg : 0 ≤ num * 32768 / den := Int.ediv_nonneg (by omega) (by omega)
  rw [divCore_eq_min num den hnum hden, reply16,
    result16_eq _ (by unfold min16; omega) (by unfold max16; omega)]

theorem reply16_max : reply16 (max16, false) = { result := BitVec.ofInt 32 32767, event := false } := by decide

/-! The clamped absolute value (R145) -/

theorem abs16_eq_absWord (x : Word16) : abs16 (s16 x) = absWord x.toInt := by
  obtain ⟨lo, hi⟩ : -32768 ≤ x.toInt ∧ x.toInt ≤ 32767 := s16_range x
  unfold abs16 absWord min16 max16 s16; omega

theorem absWord_nonneg (x : Int) : 0 ≤ absWord x := by
  unfold absWord; omega

theorem absWord_eq_zero_iff (x : Int) : absWord x = 0 ↔ x = 0 := by
  unfold absWord; omega

/-! The reply of a division, and the state that its fault leaves -/

section replies
variable (loc : FlagLoc) (rndSh : Nat) (num den : Word16)

theorem arithReply_divS_valid (ep : ErrPolicy) (valid : ¬ DomainErr num den) :
    arithReply (.divS loc num den) ep rndSh =
      some { result := BitVec.ofInt 32 (min (num.toInt * 32768 / den.toInt) 32767), event := false } := by
  have inDomain : domainError (s16 num) (s16 den) = false :=
    Bool.eq_false_of_not_eq_true fun h => valid ((domainError_iff num den).1 h)
  obtain ⟨hnum, hden, _⟩ := (not_domainErr_iff num den).1 valid
  rw [arithReply, divS16_of_valid _ _ ep inDomain, Option.map_some, reply16_divCore _ _ hnum hden]; rfl

variable (error : DomainErr num den)
include error

theorem arithReply_divS_abort : arithReply (.divS loc num den) .abort rndSh = none := by
  rw [arithReply, divS16_abort _ _ ((domainError_iff num den).2 error)]; rfl

theorem arithReply_divS_continueMax : arithReply (.divS loc num den) .continueMax rndSh =
    some { result := BitVec.ofInt 32 32767, event := false } := by
  rw [arithReply, divS16_continueMax _ _ ((domainError_iff num den).2 error), Option.map_some, reply16_max]

theorem arithReply_divS_continueAbs : arithReply (.divS loc num den) .continueAbs rndSh =
    some { result := BitVec.ofInt 32 (if den.toInt = 0 then 32767
             else min (absWord num.toInt * 32768 / absWord den.toInt) 32767)
           event := false } := by
  rw [arithReply, divS16_continueAbs _ _ ((domainError_iff num den).2 error), abs16_eq_absWord, abs16_eq_absWord]
  by_cases zero : den.toInt = 0
  · rw [if_pos ((absWord_eq_zero_iff _).2 zero), if_pos zero, Option.map_some, reply16_max]
  · have nonzero : absWord den.toInt ≠ 0 := fun h => zero ((absWord_eq_zero_iff _).1 h)
    have nonneg := absWord_nonneg den.toInt
    rw [if_neg nonzero, if_neg zero, Option.map_some, reply16_divCore _ _ (absWord_nonneg _) (by omega)]

end replies

/-- An arithmetic command without a reply halts a block that accepts it (R143). -/
theorem exec_latched (i : Instr) (s : State) (hi : i.isFlagAccess = false) (ha : Accepts s i.loc)
    (hr : arithReply i s.cfg.errPolicy s.cfg.rndSh = none) :
    exec i s = .next (latched s .divDomain (divInfo i)) := by
  obtain ⟨_, context⟩ := ha
  have present : s.badContext i.loc = false := (badContext_eq_false_iff s i.loc).2 context
  rw [exec_eq_arithReply i s hi, hr]
  exact if_neg (by simp [present])

theorem exec_divS_valid (loc : FlagLoc) (num den : Word16) (s : State) (accepts : Accepts s loc)
    (valid : ¬ DomainErr num den) :
    exec (.divS loc num den) s = .next (answered s loc (min (num.toInt * 32768 / den.toInt) 32767) false) :=
  exec_answered (.divS loc num den) s _ _ rfl accepts (arithReply_divS_valid loc _ num den _ valid)

/-! The statements -/

/-- Settles O28: 15 steps of restoring division give the floor, and the equal operands the bound. -/
theorem divSResult : Obligations.DivSResult :=
  ⟨reads_product fun w hr hop => by rw [decode, hr, hop]; rfl, fun loc num den s accepts hnum hden hle =>
    exec_divS_valid loc num den s accepts ((not_domainErr_iff num den).2 ⟨hnum, hden, hle⟩)⟩

/-- Settles O29: under ABORT a domain error has no reply. -/
theorem divSAbort : Obligations.DivSAbort := by
  intro loc num den s accepts policy error
  exact exec_latched (.divS loc num den) s rfl accepts (policy ▸ arithReply_divS_abort loc _ num den error)

/-- Settles O30: under CONTINUE_MAX the reply to a domain error is the constant. -/
theorem divSContinueMax : Obligations.DivSContinueMax := by
  intro loc num den s accepts policy error
  exact exec_answered (.divS loc num den) s _ _ rfl accepts
    (policy ▸ arithReply_divS_continueMax loc _ num den error)

/-- Settles O31: the clamped absolute values are in the reach of the closed form, wherever the denominator is not 0. -/
theorem divSContinueAbs : Obligations.DivSContinueAbs := by
  intro loc num den s accepts policy
  constructor
  · intro error
    exact exec_answered (.divS loc num den) s _ _ rfl accepts
      (policy ▸ arithReply_divS_continueAbs loc _ num den error)
  · exact exec_divS_valid loc num den s accepts

end Sys2Proof.Spec
end

/-! Facts that the statements of 46_flag_access.md need (R150 to R152), and the theorems that settle them. -/

section
namespace Sys2Proof.Spec
open Sys2Proof.Machine

/-! How the flag-access commands' words are read: RDOVF reads no operand field, WROVF bit 0 of `a` (R53, R55) -/

/-- Bit 0 of the field `a` is bit 48 of the word (R51). -/
theorem a_bit_zero (w : CmdWord) : (CmdWord.a w).getLsbD 0 = w.getLsbD 48 :=
  BitVec.getLsbD_extractLsb' 48 32 w 0

theorem reads_rdovf : Reads 0x19 fun w => .rdovf (locBits w) := by
  intro w (hr : CmdWord.rsv0 w = false) (hop : (CmdWord.op w).toNat = 0x19)
  rw [decode, hr, hop]; rfl

theorem reads_wrovf : Reads 0x1A fun w => .wrovf (locBits w) (w.getLsbD 48) := by
  intro w (hr : CmdWord.rsv0 w = false) (hop : (CmdWord.op w).toNat = 0x1A)
  rw [decode, hr, hop, a_bit_zero]; rfl

/-! The two faults of a flag-access command: each latches the head of the command's own word (R150 to R152, R161) -/

section faults
variable (i : Instr) (s : State)

theorem headInfo_encode : headInfo (encode i) = zext32 i.head :=
  congrArg zext32 (encode_head i)

theorem exec_latched_badCtx (hm : s.cfg.flagMode = .shared) (absent : s.cfg.nctx ≤ i.loc.ctx.toNat) :
    exec i s = .next (latched s .badCtx (headInfo (encode i))) := by
  rw [headInfo_encode, exec_of_absent i s ((badContext_eq_true_iff s i.loc).2 ⟨hm, absent⟩)]; rfl

theorem exec_latched_illegalOp (hi : i.isFlagAccess = true) (hm : s.cfg.flagMode = .explicit) :
    exec i s = .next (latched s .illegalOp (headInfo (encode i))) := by
  rw [headInfo_encode, exec_explicit_flagAccess i s hm hi]; rfl

end faults

/-! The answer of RDOVF on a context that exists; that of WROVF is `exec_shared` as it stands (R150, R151) -/

/-- To write back the flag that was found leaves the bank as it was. -/
theorem exec_rdovf_shared (loc : FlagLoc) (s : State) (hm : s.cfg.flagMode = .shared) (hk : loc.ctx.toNat < s.cfg.nctx) :
    exec (.rdovf loc) s = .next (s.respond (bit32 (s.readOvf loc.ctx)) false (s.readOvf loc.ctx)) :=
  calc exec (.rdovf loc) s
    _ = .next ((s.writeOvf loc.ctx (s.readOvf loc.ctx)).respond (bit32 (s.readOvf loc.ctx)) false (s.readOvf loc.ctx)) :=
      exec_shared (.rdovf loc) s hm hk
    _ = _ := by rw [writeOvf_readOvf]

/-! The statements -/

/-- Settles O34: the invariant gives the bank NCTX registers, so the written one is there to be read back. -/
theorem wrovfReadBack : Obligations.WrovfReadBack := by
  intro loc v s t inv hm hk h
  have in_bank : loc.ctx.toNat < s.ovf.length := by rwa [inv.bank, bankSize, hm]
  have written : t = s.applyEffect (.wrovf loc v) (some (v, packRsp v false (bit32 (s.readOvf loc.ctx)))) :=
    Host.Outcome.next.inj (h.symm.trans (exec_shared (.wrovf loc v) s hm hk))
  have own_flag : t.readOvf loc.ctx = v := written ▸ applyEffect_own_flag s (.wrovf loc v) v _ in_bank
  constructor
  · intro k
    by_cases own : k = loc.ctx.toNat
    · rw [if_pos own, own]; exact own_flag
    · rw [if_neg own, written]; exact applyEffect_other_flag s (.wrovf loc v) v _ k own
  · have same_cfg : t.cfg = s.cfg := exec_keeps_cfg (.wrovf loc v) s t h
    rw [exec_rdovf_shared loc t (same_cfg ▸ hm) (same_cfg ▸ hk), own_flag]; rfl

/-- Settles O32, one clause for each of the three things RDOVF can do. -/
theorem rdovfResult : Obligations.RdovfResult :=
  ⟨reads_rdovf, fun loc s _ =>
    ⟨exec_rdovf_shared loc s, exec_latched_badCtx (.rdovf loc) s, exec_latched_illegalOp (.rdovf loc) s rfl⟩⟩

/-- Settles O33, one clause for each of the three things WROVF can do. -/
theorem wrovfResult : Obligations.WrovfResult :=
  ⟨reads_wrovf, fun loc v s _ =>
    ⟨exec_shared (.wrovf loc v) s, exec_latched_badCtx (.wrovf loc v) s, exec_latched_illegalOp (.wrovf loc v) s rfl⟩⟩

end Sys2Proof.Spec
end

/-! Facts that the statements of 60_exceptions.md need (R160 to R169), and the theorems that settle them. -/

section
namespace Sys2Proof

theorem isFlagAccess_iff_opcode (i : Instr) : i.isFlagAccess = true ↔ i.opcode.toNat = 0x19 ∨ i.opcode.toNat = 0x1A := by
  cases i <;> simp [Instr.isFlagAccess, Instr.opcode]

end Sys2Proof

namespace Sys2Proof.Machine

/-! When no word is accepted (30_encoding.md R50, 60_exceptions.md R164, 70_reset_and_hazards.md R180) -/

section silent
variable {s : State}

theorem accepting_of_halted (h : s.halted = true) : s.accepting = none := by
  simp [State.accepting, State.reqReady, h]

theorem rspOffered_of_halted (h : s.halted = true) : s.rspOffered = none := by
  simp [State.rspOffered, h]

/-- The one step of a halted block pulls reset (R169). -/
theorem step_next_of_halted {t : State} (hh : s.halted = true) (h : step s = .next t) :
    ∃ ms, s.moves = .resetLow :: ms ∧ t = { s.assertReset with moves := ms } := by
  obtain ⟨_, running | next_low, ⟨cw, ha, _⟩ | ⟨_, rfl⟩⟩ := step_next_cases s t h
  · simp [hh] at running
  · simp [hh] at running
  · simp [accepting_of_halted hh] at ha
  · obtain ⟨ms, hm⟩ := (resetNext_iff s).1 next_low
    exact ⟨ms, hm, playMove_of_resetLow s ms hm⟩

/-- A block that runs has its latch clear (R160). -/
theorem State.Inv.latch_clear (inv : s.Inv) (hrun : s.halted = false) : s.cause = .none ∧ s.info = 0 := by
  have latch := inv.latch
  cases hc : s.cause <;> simp [latchOk, hc, hrun] at latch
  exact ⟨rfl, latch⟩

end silent

theorem resetBank_getD (c : Config) (k : Nat) : (resetBank c).getD k false = false := by
  have all_clear : ∀ b ∈ resetBank c, b = false := by
    cases hm : c.flagMode <;> simp [resetBank, hm]
  rw [List.getD_eq_getElem?_getD]
  cases hk : (resetBank c)[k]? with
  | none => rfl
  | some b => exact all_clear b (List.mem_of_getElem? hk)

end Sys2Proof.Machine

namespace Sys2Proof.Spec
open Sys2Proof.Machine

/-! The tests on an accepted word (R165 to R167), as the statements write them -/

/-- The context test fails (R166). -/
abbrev Absent (c : Config) (w : CmdWord) : Prop :=
  c.flagMode = .shared ∧ c.nctx ≤ (w.extractLsb' 80 8).toNat

/-- A division outside its domain under ABORT (45_division.md R143). -/
abbrev DivFault (c : Config) (w : CmdWord) : Prop :=
  opBits w = 0x18 ∧ c.errPolicy = .abort ∧ DomainErr (w.extractLsb' 48 16) (w.extractLsb' 16 16)

section tests
variable (c : Config) (w : CmdWord)

theorem not_faults_iff : ¬ Faults c w ↔ ¬ Illegal c w ∧ ¬ Absent c w ∧ ¬ DivFault c w :=
  not_or.trans (and_congr_right' not_or)

theorem illegal_of_reject (r : Reject) (hd : decode w = .error r) : Illegal c w := by
  rcases (decode_eq_error_iff w).1 ⟨r, hd⟩ with reserved_bit | zero_code | high_code
  · exact .inl reserved_bit
  · exact .inr (.inl zero_code)
  · exact .inr (.inr (.inl high_code))

variable {w} {i : Instr} (hd : decode w = .ok i)
include hd

theorem opBits_of_decode : opBits w = i.opcode.toNat := congrArg BitVec.toNat (decode_op w i hd)

/-- Of the words that decode only the flag-access commands can be illegal, in EXPLICIT mode (R56, R152). -/
theorem illegal_iff_of_decode : Illegal c w ↔ c.flagMode = .explicit ∧ i.isFlagAccess = true := by
  have not_reserved : w.getLsbD 88 = false := rsv0_of_decode w i hd
  obtain ⟨above_zero, in_table⟩ := opcode_assigned i
  rw [isFlagAccess_iff_opcode, Illegal, opBits_of_decode hd, not_reserved]
  constructor
  · rintro (reserved | zero_code | high_code | access)
    · cases reserved
    · omega
    · omega
    · exact access
  · exact fun access => .inr (.inr (.inr access))

theorem ctx_of_decode : i.loc.ctx = w.extractLsb' 80 8 := congrArg FlagLoc.ctx (decode_loc w i hd)

theorem absent_iff_badContext (s : State) : Absent s.cfg w ↔ s.badContext i.loc = true := by
  rw [badContext_eq_true_iff, ctx_of_decode hd]

theorem headInfo_encode_of_decode : headInfo (encode i) = headInfo w :=
  (headInfo_encode i).trans (congrArg zext32 (decode_head w i hd)).symm

/-- An arithmetic word without a reply is a division outside its domain under ABORT. -/
theorem divFault_of_no_reply (hi : i.isFlagAccess = false) (rndSh : Nat)
    (hr : arithReply i c.errPolicy rndSh = none) : DivFault c w := by
  have policy : c.errPolicy = .abort := arithReply_eq_none i _ rndSh hi hr
  cases i
  case divS l num den =>
    have error : DomainErr num den := by
      by_contra valid
      simp [arithReply_divS_valid l rndSh num den _ valid] at hr
    have code : opBits w = 0x18 := opBits_of_decode hd
    have operands := Except.ok.inj (hd.symm.trans (divSResult.1 w (rsv0_of_decode w _ hd) code))
    obtain ⟨_, rfl, rfl⟩ := Instr.divS.inj operands
    exact ⟨code, policy, error⟩
  case rdovf => cases hi
  case wrovf => cases hi
  all_goals cases hr

end tests

/-! What an accepted word does under each test (30_encoding.md R60, 60_exceptions.md R163) -/

section accept
variable {s : State} {w : CmdWord}

theorem acceptCommand_of_illegal (illegal : Illegal s.cfg w) :
    acceptCommand w s = .next (latched s .illegalOp (headInfo w)) := by
  cases hd : decode w with
  | error r => exact acceptCommand_of_reject s w r hd
  | ok i =>
    obtain ⟨explicit, access⟩ := (illegal_iff_of_decode s.cfg hd).1 illegal
    rw [acceptCommand_of_decode s w i hd, exec_latched_illegalOp i s access explicit, headInfo_encode_of_decode hd]

theorem acceptCommand_of_absent (legal : ¬ Illegal s.cfg w) (absent : Absent s.cfg w) :
    acceptCommand w s = .next (latched s .badCtx (headInfo w)) := by
  cases hd : decode w with
  | error r => exact absurd (illegal_of_reject s.cfg w r hd) legal
  | ok i =>
    obtain ⟨shared, outside⟩ := absent
    rw [acceptCommand_of_decode s w i hd, exec_latched_badCtx i s shared (ctx_of_decode hd ▸ outside),
      headInfo_encode_of_decode hd]

theorem acceptCommand_of_divFault (hrun : s.halted = false) (legal : ¬ Illegal s.cfg w) (present : ¬ Absent s.cfg w)
    (fault : DivFault s.cfg w) :
    acceptCommand w s = .next (latched s .divDomain (w.extractLsb' 16 16 ++ w.extractLsb' 48 16)) := by
  obtain ⟨code, policy, error⟩ := fault
  have not_reserved : w.getLsbD 88 = false := Bool.eq_false_of_not_eq_true fun h => legal (.inl h)
  have accepts : Accepts s (locBits w) := ⟨hrun, fun shared => Nat.lt_of_not_le fun h => present ⟨shared, h⟩⟩
  rw [acceptCommand_of_decode s w _ (divSResult.1 w not_reserved code)]
  exact divSAbort (locBits w) _ _ s accepts policy error

theorem acceptCommand_of_not_faults (good : ¬ Faults s.cfg w) :
    ∃ i t, acceptCommand w s = .next t ∧ Answers s i t := by
  obtain ⟨legal, present, in_domain⟩ := (not_faults_iff _ _).1 good
  cases hd : decode w with
  | error r => exact absurd (illegal_of_reject s.cfg w r hd) legal
  | ok i =>
    rw [illegal_iff_of_decode s.cfg hd] at legal
    rw [absent_iff_badContext hd s] at present
    rw [acceptCommand_of_decode s w i hd]
    cases hi : i.isFlagAccess
    case false =>
      rcases exec_arith_cases i s hi with ⟨absent, _⟩ | ⟨_, r, _, hx⟩ | ⟨_, no_reply, _⟩
      · exact absurd absent present
      · exact ⟨i, _, hx, .arith i r hi⟩
      · exact absurd (divFault_of_no_reply s.cfg hd hi _ no_reply) in_domain
    case true =>
      rcases exec_flagAccess_cases i s hi with
        ⟨explicit, _⟩ | ⟨_, absent, _⟩ | ⟨_, _, ⟨l, rfl, hx⟩ | ⟨l, v, rfl, hx⟩⟩
      · exact absurd ⟨explicit, hi⟩ legal
      · exact absurd absent present
      · exact ⟨_, _, hx, .read l⟩
      · exact ⟨_, _, hx, .write l v⟩

end accept

/-! The step of a block that accepts a word -/

section ready
variable {s : State} {w : CmdWord} (ready : Ready s w)
include ready

theorem step_of_illegal (illegal : Illegal s.cfg w) : step s = .next (latched (taken s w) .illegalOp (headInfo w)) :=
  (step_of_ready s w ready).trans (acceptCommand_of_illegal illegal)

theorem step_of_absent (legal : ¬ Illegal s.cfg w) (absent : Absent s.cfg w) :
    step s = .next (latched (taken s w) .badCtx (headInfo w)) :=
  (step_of_ready s w ready).trans (acceptCommand_of_absent legal absent)

theorem step_of_divFault (legal : ¬ Illegal s.cfg w) (present : ¬ Absent s.cfg w) (fault : DivFault s.cfg w) :
    step s = .next (latched (taken s w) .divDomain (w.extractLsb' 16 16 ++ w.extractLsb' 48 16)) := by
  have ⟨_, _, hrun, _, _⟩ := ready
  exact (step_of_ready s w ready).trans (acceptCommand_of_divFault (s := taken s w) hrun legal present fault)

theorem step_of_not_faults (good : ¬ Faults s.cfg w) :
    ∃ bank r, step s = .next { taken s w with ovf := bank, rsp := some r } := by
  obtain ⟨i, t, hx, answers⟩ := acceptCommand_of_not_faults (s := taken s w) good
  obtain ⟨bank, r, _, _, rfl⟩ := answers.frame
  exact ⟨bank, r, (step_of_ready s w ready).trans hx⟩

theorem step_of_faults (bad : Faults s.cfg w) :
    ∃ c x, c ≠ .none ∧ step s = .next (latched (taken s w) c x) := by
  by_cases illegal : Illegal s.cfg w
  · exact ⟨.illegalOp, _, nofun, step_of_illegal ready illegal⟩
  by_cases absent : Absent s.cfg w
  · exact ⟨.badCtx, _, nofun, step_of_absent ready illegal absent⟩
  · have fault : DivFault s.cfg w := (bad.resolve_left illegal).resolve_left absent
    exact ⟨.divDomain, _, nofun, step_of_divFault ready illegal absent fault⟩

/-- CAUSE after an accepted word, the tests in the order of R167. -/
theorem cause_after_ready {t : State} (h : step s = .next t) :
    t.cause = if Illegal s.cfg w then .illegalOp else if Absent s.cfg w then .badCtx
      else if DivFault s.cfg w then .divDomain else s.cause := by
  split_ifs with illegal absent fault
  · obtain rfl := Host.Outcome.next.inj (h.symm.trans (step_of_illegal ready illegal)); rfl
  · obtain rfl := Host.Outcome.next.inj (h.symm.trans (step_of_absent ready illegal absent)); rfl
  · obtain rfl := Host.Outcome.next.inj (h.symm.trans (step_of_divFault ready illegal absent fault)); rfl
  · obtain ⟨bank, r, hx⟩ := step_of_not_faults ready ((not_faults_iff _ _).2 ⟨illegal, absent, fault⟩)
    obtain rfl := Host.Outcome.next.inj (h.symm.trans hx); rfl

end ready

/-! The statements -/

/-- Settles O44: whether the decoder refuses the word or the meaning of a flag-access command does. -/
theorem illegalWordHalts : Obligations.IllegalWordHalts := fun _ _ ready illegal => step_of_illegal ready illegal

/-- Settles O45: for the converse, each other way an accepted word can end leaves another CAUSE or the one it found. -/
theorem badContextHalts : Obligations.BadContextHalts := by
  refine fun s w ready => ⟨fun legal shared outside => step_of_absent ready legal ⟨shared, outside⟩, ?_⟩
  intro t h now before
  have cause := cause_after_ready ready h
  rw [now] at cause
  split_ifs at cause with illegal absent
  · exact ⟨illegal, absent⟩
  · exact absurd cause.symm before

/-- Settles O46: a word that faults leaves the latch on the state that took it, any other an answer. -/
theorem everyCommandEnds : Obligations.EveryCommandEnds := by
  intro s w ready
  have ⟨_, _, hrun, hrsp, _⟩ := ready
  by_cases bad : Faults s.cfg w
  · obtain ⟨c, x, _, hx⟩ := step_of_faults ready bad
    exact ⟨_, hx, rfl, rfl, rfl, rfl, rfl, rfl, rfl, .inr ⟨rfl, hrsp, rfl⟩⟩
  · obtain ⟨bank, r, hx⟩ := step_of_not_faults ready bad
    exact ⟨_, hx, rfl, rfl, rfl, rfl, rfl, rfl, rfl, .inl ⟨hrun, rfl, rfl, nofun⟩⟩

/-- Settles O47: by the invariant the latch was clear before the word. -/
theorem faultsAreTheNamedOnes : Obligations.FaultsAreTheNamedOnes := by
  intro s t w inv ready h
  have ⟨_, _, hrun, _, _⟩ := ready
  obtain ⟨clear, _⟩ := inv.latch_clear hrun
  rw [cause_after_ready ready h, clear]

/-- Settles O51, from the one step that a halted block has. -/
theorem onlyResetLeavesHalt : Obligations.OnlyResetLeavesHalt := by
  intro s t hh h
  obtain ⟨ms, hm, rfl⟩ := step_next_of_halted hh h
  exact ⟨⟨ms, hm, rfl⟩, rfl, rfl, resetBank_getD s.cfg⟩

/-- Settles O48: the three tests that `step` and the pins make before any word is looked at. -/
theorem stepStops : Obligations.StepStops := by
  refine ⟨fun s hh => ?_, fun s hv hh hm => ?_, fun s bad => ?_⟩
  · simp [State.pins, State.reqReady, rspOffered_of_halted hh, hh]
  · have no_reset : s.resetNext = false :=
      Bool.eq_false_of_not_eq_true fun h => ((resetNext_iff s).1 h).elim hm
    simp [step, hv, hh, no_reset]
  · have invalid : s.cfg.valid = false := by
      rw [Config.valid, Bool.eq_false_iff]
      simp only [ne_eq, Bool.and_eq_true, Bool.or_eq_true, decide_eq_true_eq, beq_iff_eq]
      omega
    simp [step, invalid]

end Sys2Proof.Spec
end

/-! Facts that the statements of 70_reset_and_hazards.md need (R180 to R189), and the theorems that settle them. -/

section
namespace Sys2Proof.Machine

/-! While reset is low (R180) -/

section low
variable {s : State}

theorem accepting_of_low (h : s.rstN = false) : s.accepting = none := by
  simp [State.accepting, State.reqReady, h]

/-- What the invariant says of a block that is held in reset. -/
theorem State.Inv.held (inv : s.Inv) (hlow : s.rstN = false) :
    s.ovf = resetBank s.cfg ∧ s.halted = false ∧ s.rsp = none ∧ s.accepted = [] ∧ s.delivered = [] := by
  simpa [heldInReset, and_assoc] using inv.inReset hlow

theorem State.Inv.high_of_halted (inv : s.Inv) (hh : s.halted = true) : s.rstN = true := by
  by_contra hlow
  obtain ⟨_, hrun, _⟩ := inv.held (Bool.eq_false_of_not_eq_true hlow)
  simp [hh] at hrun

end low

/-! When a run has ended well (R188) -/

/-- Every word among the moves is offered only after a reset was pulled. -/
abbrev OffersFollowReset (ms : List Move) : Prop := ∀ pre w post, ms = pre ++ .offer w :: post → .resetLow ∈ pre

theorem offersFollowReset_cons (m : Move) (ms : List Move) :
    OffersFollowReset (m :: ms) ↔ (∀ w, m ≠ .offer w) ∧ (m ≠ .resetLow → OffersFollowReset ms) := by
  constructor
  · refine fun h => ⟨fun w hw => ?_, fun no_reset pre w post hms => ?_⟩
    · simpa using h [] w ms (congrArg (· :: ms) hw)
    · have in_longer := h (m :: pre) w post (congrArg (m :: ·) hms)
      exact (List.mem_cons.1 in_longer).resolve_left (Ne.symm no_reset)
  · rintro ⟨no_offer, rest⟩ (_ | ⟨m', pre⟩) w post split
    · exact absurd (List.cons.inj split).1 (no_offer w)
    · obtain ⟨first, others⟩ := List.cons.inj split
      by_cases reset : m = .resetLow
      · exact List.mem_cons.2 (.inl (reset.symm.trans first))
      · exact List.mem_cons_of_mem m' (rest reset pre w post others)

/-- Nothing is left to send exactly when every word planned comes after a reset. -/
theorem stillToSend_eq_nil_iff (ms : List Move) : stillToSend ms = [] ↔ OffersFollowReset ms := by
  induction ms with
  | nil => simp [OffersFollowReset]
  | cons m ms ih =>
    rw [offersFollowReset_cons, ← ih]
    cases m <;> simp

theorem endedWell_iff (s : State) :
    s.endedWell = true ↔ s.rstN = true ∧ s.halted = false ∧ s.req = none ∧ stillToSend s.moves = [] ∧
      s.accepted.length = s.delivered.length := by
  simp only [State.endedWell, RunRecord.endedWell, State.runRecord_unsent, State.runRecord_accepted,
    State.runRecord_delivered, State.runRecord_halted, Bool.and_eq_true, Bool.not_eq_true', List.isEmpty_iff,
    List.append_eq_nil_iff, Option.toList_eq_nil_iff, beq_iff_eq]
  tauto

/-- In a block that runs, all accepted commands are answered exactly when no response waits. -/
theorem State.Inv.answered_iff {s : State} (inv : s.Inv) (hrun : s.halted = false) :
    s.accepted.length = s.delivered.length ↔ s.rsp = none := by
  rw [inv.oneInBlock, hrun, Bool.or_false]
  cases s.rsp <;> simp

/-! The record of the runs (R188) -/

theorem pastAfterReset_extends (s : State) : ∃ rs, s.pastAfterReset = s.past ++ rs := by
  cases hr : s.rstN
  · exact ⟨[], by rw [pastAfterReset_of_low s hr, List.append_nil]⟩
  · exact ⟨_, pastAfterReset_of_high s hr⟩

theorem step_extends_past (s t : State) (h : step s = .next t) : ∃ rs, t.past = s.past ++ rs := by
  obtain ⟨_, _, ⟨cw, _, hx⟩ | ⟨_, rfl⟩⟩ := step_next_cases s t h
  · obtain ⟨_, same⟩ := acceptCommand_keeps_delivered cw (s.consume cw) t hx
    exact ⟨[], by simp [same]⟩
  rcases playMove_cases s with hp | ⟨_, _, _, _, hp⟩ | ⟨_, _, _, _, hp⟩ | ⟨_, _, hp⟩ | ⟨_, _, hp⟩ <;> rw [hp]
  · exact ⟨[], (List.append_nil _).symm⟩
  · exact ⟨[], (List.append_nil _).symm⟩
  · exact ⟨[], (List.append_nil _).symm⟩
  · exact pastAfterReset_extends s
  · exact ⟨[], (List.append_nil _).symm⟩

theorem allEndedWell_of_mem {s : State} {r : RunRecord} (recorded : r ∈ s.past) (h : r.endedWell = false) :
    s.allEndedWell = false := by
  have not_all : s.past.all RunRecord.endedWell = false := List.all_eq_false.2 ⟨r, recorded, by simp [h]⟩
  rw [State.allEndedWell, not_all, Bool.false_and]

/-! Runs of the machine, a step at a time -/

section run
variable (M : Host.Core) {s t : M.State}

theorem run_of_step_next (h : M.step s = .next t) (k : Nat) : M.run (k + 1) s = M.run k t := by
  rw [Host.Core.run, h]

theorem run_of_step_fault {r : M.Fault} (h : M.step s = .fault r) (k : Nat) : M.run (k + 1) s = .fault r := by
  rw [Host.Core.run, h]

end run

end Sys2Proof.Machine

namespace Sys2Proof.Spec
open Sys2Proof.Machine

/-! A command sent and its response taken: three steps of the machine (R187 to R189) -/

/-- A block of valid parameters that runs, with a free port. -/
abbrev Idle (s : State) : Prop :=
  s.cfg.valid = true ∧ s.rstN = true ∧ s.halted = false ∧ s.req = none ∧ s.rsp = none

/-- The state once the word is on the port, its response to be taken next. -/
def offered (s : State) (w : CmdWord) (ms : List Move) : State := { s with req := some w, moves := .take :: ms }

/-- The state once a word was accepted, its response taken, and the flags left as `bank`. -/
def served (s : State) (w : CmdWord) (bank : List Bool) (r : RspWord) (ms : List Move) : State :=
  { s with
    ovf := bank, req := none, rsp := none, moves := ms
    accepted := s.accepted ++ [w], delivered := s.delivered ++ [r] }

theorem sendAll_cons (w : CmdWord) (ws : List CmdWord) : sendAll (w :: ws) = .offer w :: .take :: sendAll ws := rfl

section round
variable {s : State} {w : CmdWord} {ms : List Move} (idle : Idle s)
include idle

theorem idle_served (bank : List Bool) (r : RspWord) : Idle (served s w bank r ms) := by
  obtain ⟨hv, hrst, hrun, _, _⟩ := idle
  exact ⟨hv, hrst, hrun, rfl, rfl⟩

theorem ready_offered : Ready (offered s w ms) w := by
  obtain ⟨hv, hrst, hrun, _, hrsp⟩ := idle
  exact ⟨hv, hrst, hrun, hrsp, rfl⟩

variable (hm : s.moves = .offer w :: .take :: ms)
include hm

theorem step_offers : step s = .next (offered s w ms) := by
  obtain ⟨hv, _, hrun, hreq, _⟩ := idle
  obtain ⟨_, _, offers⟩ := portHandshake
  exact offers s w (.take :: ms) hv hrun hreq hm

theorem run_round_of_not_faults (good : ¬ Faults s.cfg w) :
    ∃ bank r, ∀ k, core.run (k + 3) s = core.run k (served s w bank r ms) := by
  obtain ⟨bank, r, accepts⟩ := step_of_not_faults (ready_offered (ms := ms) idle) good
  have delivers : step { taken (offered s w ms) w with ovf := bank, rsp := some r } = .next (served s w bank r ms) := by
    obtain ⟨hv, hrst, hrun, _, _⟩ := idle
    obtain ⟨_, takes, _⟩ := portHandshake
    exact takes _ r ms hv hrst hrun rfl rfl
  refine ⟨bank, r, fun k => ?_⟩
  rw [run_of_step_next core (step_offers idle hm), run_of_step_next core accepts, run_of_step_next core delivers]

theorem run_round_of_faults (bad : Faults s.cfg w) :
    ∃ c, c ≠ .none ∧ ∀ k, core.run (k + 3) s = .fault (.halted c) := by
  obtain ⟨c, x, named, accepts⟩ := step_of_faults (ready_offered (ms := ms) idle) bad
  have stops : step (latched (taken (offered s w ms) w) c x) = .fault (.halted c) := by
    obtain ⟨hv, _⟩ := idle
    obtain ⟨_, halted_stops, _⟩ := stepStops
    exact halted_stops _ hv rfl fun _ => nofun
  refine ⟨c, named, fun k => ?_⟩
  rw [run_of_step_next core (step_offers idle hm), run_of_step_next core accepts, run_of_step_fault core stops]

end round

/-! A whole list of commands, by induction along it -/

theorem run_sendAll_of_no_fault (ws : List CmdWord) : ∀ s : State, Idle s → s.moves = sendAll ws →
    (∀ w ∈ ws, ¬ Faults s.cfg w) →
    ∃ t rs, core.run (3 * ws.length) s = .next t ∧ Idle t ∧ t.moves = [] ∧
      t.accepted = s.accepted ++ ws ∧ t.delivered = s.delivered ++ rs ∧ rs.length = ws.length := by
  induction ws with
  | nil => exact fun s idle hm _ => ⟨s, [], rfl, idle, hm, by simp, by simp, rfl⟩
  | cons w ws ih =>
    intro s idle hm good
    obtain ⟨good_head, good_tail⟩ := List.forall_mem_cons.1 good
    obtain ⟨bank, r, round⟩ := run_round_of_not_faults idle (hm.trans (sendAll_cons w ws)) good_head
    obtain ⟨t, rs, run, idle_t, no_moves, acc, del, len⟩ :=
      ih (served s w bank r (sendAll ws)) (idle_served idle bank r) rfl good_tail
    exact ⟨t, r :: rs, (round _).trans run, idle_t, no_moves, by simp [acc, served], by simp [del, served],
      by simp [len]⟩

theorem run_sendAll_of_fault (ws : List CmdWord) : ∀ s : State, Idle s → s.moves = sendAll ws →
    (∃ w ∈ ws, Faults s.cfg w) →
    ∃ c, c ≠ .none ∧ core.run (3 * ws.length) s = .fault (.halted c) := by
  induction ws with
  | nil => simp
  | cons w ws ih =>
    intro s idle hm bad
    have moves := hm.trans (sendAll_cons w ws)
    by_cases bad_head : Faults s.cfg w
    · obtain ⟨c, named, run⟩ := run_round_of_faults idle moves bad_head
      exact ⟨c, named, run _⟩
    · obtain ⟨bank, r, round⟩ := run_round_of_not_faults idle moves bad_head
      have bad_tail : ∃ v ∈ ws, Faults s.cfg v := by simpa [bad_head] using bad
      obtain ⟨c, named, run⟩ := ih (served s w bank r (sendAll ws)) (idle_served idle bank r) rfl bad_tail
      exact ⟨c, named, (round _).trans run⟩

/-! The statements -/

/-- Settles O50: no word is accepted and no response offered, so the step is a move of the requester that the block does not see. -/
theorem resetHolds : Obligations.ResetHolds := by
  intro s t inv hlow h
  obtain ⟨bank, hrun, hrsp, hacc, hdel⟩ := inv.held hlow
  obtain ⟨hcause, hinfo⟩ := inv.latch_clear hrun
  obtain ⟨_, _, ⟨cw, ha, _⟩ | ⟨_, rfl⟩⟩ := step_next_cases s t h
  · simp [accepting_of_low hlow] at ha
  rcases playMove_cases s with hp | ⟨cw, ms, _, hreq, hp⟩ | ⟨r, ms, _, ho, _⟩ | ⟨ms, _, hp⟩ | ⟨ms, _, hp⟩
  · rw [hp]; exact ⟨bank, hrun, hcause, hinfo, hrsp, hacc, hdel, rfl, fun _ => rfl⟩
  · rw [hp]; exact ⟨bank, hrun, hcause, hinfo, hrsp, hacc, hdel, rfl, absurd hreq⟩
  · obtain ⟨hhigh, _⟩ := (rspOffered_eq_some_iff s r).1 ho
    simp [hlow] at hhigh
  · rw [hp]; exact ⟨rfl, rfl, rfl, rfl, rfl, rfl, rfl, pastAfterReset_of_low s hlow, fun _ => rfl⟩
  · rw [hp]; exact ⟨bank, hrun, hcause, hinfo, hrsp, hacc, hdel, rfl, fun _ => rfl⟩

/-- Settles O54: by the invariant the accepted commands are all answered exactly when no response waits. -/
theorem endedWellMeans : Obligations.EndedWellMeans := by
  refine fun s inv => ⟨?_, fun ended => ?_⟩
  · rw [endedWell_iff, stillToSend_eq_nil_iff]
    constructor
    · rintro ⟨hrst, hrun, hreq, sent, counts⟩
      exact ⟨hrst, hrun, hreq, (inv.answered_iff hrun).1 counts, sent⟩
    · rintro ⟨hrst, hrun, hreq, hrsp, sent⟩
      exact ⟨hrst, hrun, hreq, sent, (inv.answered_iff hrun).2 hrsp⟩
  · obtain ⟨_, _, _, _, counts⟩ := (endedWell_iff s).1 ended
    exact counts.symm

/-- Settles O55: the reset that ends a faulted run is one of a run that is there, the invariant holding no fault in reset. -/
theorem faultedRunNeverEndsWell : Obligations.FaultedRunNeverEndsWell := by
  refine ⟨fun s hh => ⟨?_, hh⟩, fun s t inv hh h => ?_, step_extends_past⟩
  · simp [State.endedWell, RunRecord.endedWell, hh]
  · obtain ⟨ms, hm, rfl⟩ := step_next_of_halted hh h
    have recorded : s.pastAfterReset = s.past ++ [recordOf s] := by
      rw [pastAfterReset_eq_recordOf s ms hm, if_pos (inv.high_of_halted hh)]
    have not_well : (recordOf s).endedWell = false := by simp [RunRecord.endedWell, recordOf, hh]
    have unanswered : s.accepted.length = s.delivered.length + 1 := by simpa [hh] using inv.oneInBlock
    exact ⟨recorded, hh, not_well, unanswered, allEndedWell_of_mem (by simp [recorded]) not_well⟩

/-- Settles O56: three steps a word, the block idle between the words. -/
theorem finiteRunsEnd : Obligations.FiniteRunsEnd := by
  intro s ws inv hrst hrun hreq hrsp hm
  have idle : Idle s := ⟨inv.cfgValid, hrst, hrun, hreq, hrsp⟩
  refine ⟨fun good => ?_, run_sendAll_of_fault ws s idle hm⟩
  obtain ⟨t, rs, run, ⟨_, hrst_t, hrun_t, hreq_t, _⟩, no_moves, acc, del, len⟩ :=
    run_sendAll_of_no_fault ws s idle hm good
  have counts : t.accepted.length = t.delivered.length := by
    rw [acc, del, List.length_append, List.length_append, len, (inv.answered_iff hrun).2 hrsp]
  have nothing_left : stillToSend t.moves = [] := by rw [no_moves, stillToSend_nil]
  exact ⟨t, rs, run, (endedWell_iff t).2 ⟨hrst_t, hrun_t, hreq_t, nothing_left, counts⟩, no_moves, acc, del, len⟩

/-- Settles O57: such a step is a move of the requester. -/
theorem nothingUnasked : Obligations.NothingUnasked := by
  intro s t h no_word
  obtain ⟨_, _, ⟨cw, ha, _⟩ | ⟨_, rfl⟩⟩ := step_next_cases s t h
  · simp [no_word] at ha
  rcases playMove_cases s with hp | ⟨_, _, _, _, hp⟩ | ⟨_, _, _, _, hp⟩ | ⟨ms, hm, hp⟩ | ⟨_, _, hp⟩ <;> rw [hp]
  · exact ⟨.inl rfl, .inl rfl, id⟩
  · exact ⟨.inl rfl, .inl rfl, id⟩
  · exact ⟨.inl rfl, .inr rfl, id⟩
  · exact ⟨.inr ⟨ms, hm⟩, .inr rfl, nofun⟩
  · exact ⟨.inl rfl, .inl rfl, id⟩

end Sys2Proof.Spec
end
